-- ==== Sys2Proof/Word.lean ====
section
/-! DEFINITION. The word types of the CORE: bytes, 16-bit words, 4-bit fields and 12-bit addresses
(spec/00_scope.md R8, R10; spec/30_encoding.md R101). -/

namespace Sys2Proof

/-- An 8-bit value: a general register, a memory byte, an immediate `kk` (R8, R30). -/
abbrev Byte := BitVec 8

/-- A 16-bit value: an instruction word, `I`, `PC`, a stack entry (R8, R39, R40). -/
abbrev Word := BitVec 16

/-- A 4-bit value: a register index `x` or `y`, a height `n`, a key index (R101). -/
abbrev Nibble := BitVec 4

/-- The 12-bit address field `nnn` (R101). -/
abbrev Addr12 := BitVec 12

end Sys2Proof
end

