-- ==== Sys2Proof/Syntax.lean ====
section
/-! DEFINITION. The instructions: one constructor per row of spec/opcode_table.json
(spec/30_encoding.md R104, R106). -/

namespace Sys2Proof

/-- The 34 instructions of R104 and the no-op rows of R106, in the table's order. A no-op keeps the
bits of its word that are not fixed, so that no bit of a word is dropped (log 18). -/
inductive Instr where
  | cls
  | ret
  | jp (nnn : Addr12)
  | call (nnn : Addr12)
  | seImm (x : Nibble) (kk : Byte)
  | sneImm (x : Nibble) (kk : Byte)
  | seReg (x y : Nibble)
  | ldImm (x : Nibble) (kk : Byte)
  | addImm (x : Nibble) (kk : Byte)
  | ldReg (x y : Nibble)
  | orReg (x y : Nibble)
  | andReg (x y : Nibble)
  | xorReg (x y : Nibble)
  | addReg (x y : Nibble)
  | subReg (x y : Nibble)
  | shr (x y : Nibble)
  | subnReg (x y : Nibble)
  | shl (x y : Nibble)
  | sneReg (x y : Nibble)
  | ldI (nnn : Addr12)
  | jpV0 (nnn : Addr12)
  | rnd (x : Nibble) (kk : Byte)
  | drw (x y n : Nibble)
  | skp (x : Nibble)
  | sknp (x : Nibble)
  | ldFromDt (x : Nibble)
  | ldKey (x : Nibble)
  | ldDt (x : Nibble)
  | ldSt (x : Nibble)
  | addI (x : Nibble)
  | ldF (x : Nibble)
  | ldB (x : Nibble)
  | storeRegs (x : Nibble)
  | loadRegs (x : Nibble)
  | nopClass0 (nnn : Addr12)
  | nopClass5 (x y n : Nibble)
  | nop8xy8 (x y : Nibble)
  | nop8xy9 (x y : Nibble)
  | nop8xyA (x y : Nibble)
  | nop8xyB (x y : Nibble)
  | nop8xyC (x y : Nibble)
  | nop8xyD (x y : Nibble)
  | nop8xyF (x y : Nibble)
  | nopClass9 (x y n : Nibble)
  | nopClassE (x : Nibble) (kk : Byte)
  | nopClassF (x : Nibble) (kk : Byte)
  deriving DecidableEq, Repr

end Sys2Proof
end

