-- ==== Sys2Proof/WellFormed.lean ====
section
/-! DEFINITION. Which terms of Instr stand for a word of the machine: a no-op term may not hold the
bits of an instruction of its class (spec/30_encoding.md R106). Every other field is exactly as wide
as its bits, so no other check is needed. -/

namespace Sys2Proof

/-- The sub-opcodes of class E that are instructions (R104). -/
def isClassESubop (kk : Byte) : Bool := kk == 0x9E#8 || kk == 0xA1#8

/-- The sub-opcodes of class F that are instructions (R104). -/
def isClassFSubop (kk : Byte) : Bool :=
  kk == 0x07#8 || kk == 0x0A#8 || kk == 0x15#8 || kk == 0x18#8 || kk == 0x1E#8 ||
  kk == 0x29#8 || kk == 0x33#8 || kk == 0x55#8 || kk == 0x65#8

/-- The well-formed instructions: R106 says which words each no-op space leaves out. -/
def Instr.wellFormed : Instr → Bool
  | .nopClass0 nnn => nnn != 0x0E0#12 && nnn != 0x0EE#12
  | .nopClass5 _ _ n => n != 0#4
  | .nopClass9 _ _ n => n != 0#4
  | .nopClassE _ kk => !isClassESubop kk
  | .nopClassF _ kk => !isClassFSubop kk
  | .cls => true
  | .ret => true
  | .jp _ => true
  | .call _ => true
  | .seImm _ _ => true
  | .sneImm _ _ => true
  | .seReg _ _ => true
  | .ldImm _ _ => true
  | .addImm _ _ => true
  | .ldReg _ _ => true
  | .orReg _ _ => true
  | .andReg _ _ => true
  | .xorReg _ _ => true
  | .addReg _ _ => true
  | .subReg _ _ => true
  | .shr _ _ => true
  | .subnReg _ _ => true
  | .shl _ _ => true
  | .sneReg _ _ => true
  | .ldI _ => true
  | .jpV0 _ => true
  | .rnd _ _ => true
  | .drw _ _ _ => true
  | .skp _ => true
  | .sknp _ => true
  | .ldFromDt _ => true
  | .ldKey _ => true
  | .ldDt _ => true
  | .ldSt _ => true
  | .addI _ => true
  | .ldF _ => true
  | .ldB _ => true
  | .storeRegs _ => true
  | .loadRegs _ => true
  | .nop8xy8 _ _ => true
  | .nop8xy9 _ _ => true
  | .nop8xyA _ _ => true
  | .nop8xyB _ _ => true
  | .nop8xyC _ _ => true
  | .nop8xyD _ _ => true
  | .nop8xyF _ _ => true

/-- The no-op terms (R106): every word the decoder does not map to one of the 34 instructions. -/
def Instr.isNop : Instr → Bool
  | .nopClass0 _ => true
  | .nopClass5 _ _ _ => true
  | .nop8xy8 _ _ => true
  | .nop8xy9 _ _ => true
  | .nop8xyA _ _ => true
  | .nop8xyB _ _ => true
  | .nop8xyC _ _ => true
  | .nop8xyD _ _ => true
  | .nop8xyF _ _ => true
  | .nopClass9 _ _ _ => true
  | .nopClassE _ _ => true
  | .nopClassF _ _ => true
  | .cls => false
  | .ret => false
  | .jp _ => false
  | .call _ => false
  | .seImm _ _ => false
  | .sneImm _ _ => false
  | .seReg _ _ => false
  | .ldImm _ _ => false
  | .addImm _ _ => false
  | .ldReg _ _ => false
  | .orReg _ _ => false
  | .andReg _ _ => false
  | .xorReg _ _ => false
  | .addReg _ _ => false
  | .subReg _ _ => false
  | .shr _ _ => false
  | .subnReg _ _ => false
  | .shl _ _ => false
  | .sneReg _ _ => false
  | .ldI _ => false
  | .jpV0 _ => false
  | .rnd _ _ => false
  | .drw _ _ _ => false
  | .skp _ => false
  | .sknp _ => false
  | .ldFromDt _ => false
  | .ldKey _ => false
  | .ldDt _ => false
  | .ldSt _ => false
  | .addI _ => false
  | .ldF _ => false
  | .ldB _ => false
  | .storeRegs _ => false
  | .loadRegs _ => false

end Sys2Proof
end

