-- ==== Sys2Proof/Decode.lean ====
section
/-! DEFINITION. Fields, decoder and encoder (spec/30_encoding.md R100 to R107). Decoding a word is
total and never refuses; decoding bytes refuses, by name, only a list of fewer than two bytes. -/

namespace Sys2Proof

/-! ## Fields of a word (R101) -/

def classOf (w : Word) : Nibble := w.extractLsb' 12 4
def xOf (w : Word) : Nibble := w.extractLsb' 8 4
def yOf (w : Word) : Nibble := w.extractLsb' 4 4
def nOf (w : Word) : Nibble := w.extractLsb' 0 4
def kkOf (w : Word) : Byte := w.extractLsb' 0 8
def nnnOf (w : Word) : Addr12 := w.extractLsb' 0 12

/-- A word from its two bytes: the byte at the lower address is the high byte (R72, R100). -/
def wordOfBytes (hi lo : Byte) : Word := hi ++ lo

/-! ## The decoder (R104, R105) -/

/-- Class 0 is matched on the whole word (R105; 92 D4). -/
def decodeClass0 (w : Word) : Instr :=
  if w = 0x00E0#16 then .cls
  else if w = 0x00EE#16 then .ret
  else .nopClass0 (nnnOf w)

def decodeClass5 (w : Word) : Instr :=
  if nOf w = 0#4 then .seReg (xOf w) (yOf w) else .nopClass5 (xOf w) (yOf w) (nOf w)

def decodeClass9 (w : Word) : Instr :=
  if nOf w = 0#4 then .sneReg (xOf w) (yOf w) else .nopClass9 (xOf w) (yOf w) (nOf w)

/-- Class 8 selects on the low nibble; the last line is `8xyF`, the one nibble left. -/
def decodeClass8 (w : Word) : Instr :=
  match (nOf w).toNat with
  | 0x0 => .ldReg (xOf w) (yOf w)
  | 0x1 => .orReg (xOf w) (yOf w)
  | 0x2 => .andReg (xOf w) (yOf w)
  | 0x3 => .xorReg (xOf w) (yOf w)
  | 0x4 => .addReg (xOf w) (yOf w)
  | 0x5 => .subReg (xOf w) (yOf w)
  | 0x6 => .shr (xOf w) (yOf w)
  | 0x7 => .subnReg (xOf w) (yOf w)
  | 0x8 => .nop8xy8 (xOf w) (yOf w)
  | 0x9 => .nop8xy9 (xOf w) (yOf w)
  | 0xA => .nop8xyA (xOf w) (yOf w)
  | 0xB => .nop8xyB (xOf w) (yOf w)
  | 0xC => .nop8xyC (xOf w) (yOf w)
  | 0xD => .nop8xyD (xOf w) (yOf w)
  | 0xE => .shl (xOf w) (yOf w)
  | _   => .nop8xyF (xOf w) (yOf w)

def decodeClassE (w : Word) : Instr :=
  if kkOf w = 0x9E#8 then .skp (xOf w)
  else if kkOf w = 0xA1#8 then .sknp (xOf w)
  else .nopClassE (xOf w) (kkOf w)

def decodeClassF (w : Word) : Instr :=
  if kkOf w = 0x07#8 then .ldFromDt (xOf w)
  else if kkOf w = 0x0A#8 then .ldKey (xOf w)
  else if kkOf w = 0x15#8 then .ldDt (xOf w)
  else if kkOf w = 0x18#8 then .ldSt (xOf w)
  else if kkOf w = 0x1E#8 then .addI (xOf w)
  else if kkOf w = 0x29#8 then .ldF (xOf w)
  else if kkOf w = 0x33#8 then .ldB (xOf w)
  else if kkOf w = 0x55#8 then .storeRegs (xOf w)
  else if kkOf w = 0x65#8 then .loadRegs (xOf w)
  else .nopClassF (xOf w) (kkOf w)

/-- The decode function, total on every 16-bit word (R105). -/
def decode (w : Word) : Instr :=
  match (classOf w).toNat with
  | 0x0 => decodeClass0 w
  | 0x1 => .jp (nnnOf w)
  | 0x2 => .call (nnnOf w)
  | 0x3 => .seImm (xOf w) (kkOf w)
  | 0x4 => .sneImm (xOf w) (kkOf w)
  | 0x5 => decodeClass5 w
  | 0x6 => .ldImm (xOf w) (kkOf w)
  | 0x7 => .addImm (xOf w) (kkOf w)
  | 0x8 => decodeClass8 w
  | 0x9 => decodeClass9 w
  | 0xA => .ldI (nnnOf w)
  | 0xB => .jpV0 (nnnOf w)
  | 0xC => .rnd (xOf w) (kkOf w)
  | 0xD => .drw (xOf w) (yOf w) (nOf w)
  | 0xE => decodeClassE w
  | _   => decodeClassF w

/-- Why a list of bytes holds no instruction: it is shorter than one word (R100). -/
inductive DecodeError where
  | truncated
  deriving DecidableEq, Repr

/-- The first instruction of a list of bytes and the bytes after it (R72, R100). -/
def decodeBytes : List Byte → Except DecodeError (Instr × List Byte)
  | hi :: lo :: rest => .ok (decode (wordOfBytes hi lo), rest)
  | [_] => .error .truncated
  | [] => .error .truncated

/-! ## The encoder, from the operand formats of R102 -/

/-- Format `A`: class and address. -/
def formatA (c : Nibble) (nnn : Addr12) : Word := c ++ nnn

/-- Formats `XK` and `X`: class, register, low byte (an immediate or a sub-opcode). -/
def formatXK (c x : Nibble) (kk : Byte) : Word := c ++ x ++ kk

/-- Formats `XY` and `XYN`: class, two registers, low nibble (a sub-opcode or a height). -/
def formatXYN (c x y n : Nibble) : Word := c ++ x ++ y ++ n

/-- The word of an instruction (R104, R106). -/
def encode : Instr → Word
  | .cls => 0x00E0#16
  | .ret => 0x00EE#16
  | .jp nnn => formatA 0x1#4 nnn
  | .call nnn => formatA 0x2#4 nnn
  | .seImm x kk => formatXK 0x3#4 x kk
  | .sneImm x kk => formatXK 0x4#4 x kk
  | .seReg x y => formatXYN 0x5#4 x y 0x0#4
  | .ldImm x kk => formatXK 0x6#4 x kk
  | .addImm x kk => formatXK 0x7#4 x kk
  | .ldReg x y => formatXYN 0x8#4 x y 0x0#4
  | .orReg x y => formatXYN 0x8#4 x y 0x1#4
  | .andReg x y => formatXYN 0x8#4 x y 0x2#4
  | .xorReg x y => formatXYN 0x8#4 x y 0x3#4
  | .addReg x y => formatXYN 0x8#4 x y 0x4#4
  | .subReg x y => formatXYN 0x8#4 x y 0x5#4
  | .shr x y => formatXYN 0x8#4 x y 0x6#4
  | .subnReg x y => formatXYN 0x8#4 x y 0x7#4
  | .shl x y => formatXYN 0x8#4 x y 0xE#4
  | .sneReg x y => formatXYN 0x9#4 x y 0x0#4
  | .ldI nnn => formatA 0xA#4 nnn
  | .jpV0 nnn => formatA 0xB#4 nnn
  | .rnd x kk => formatXK 0xC#4 x kk
  | .drw x y n => formatXYN 0xD#4 x y n
  | .skp x => formatXK 0xE#4 x 0x9E#8
  | .sknp x => formatXK 0xE#4 x 0xA1#8
  | .ldFromDt x => formatXK 0xF#4 x 0x07#8
  | .ldKey x => formatXK 0xF#4 x 0x0A#8
  | .ldDt x => formatXK 0xF#4 x 0x15#8
  | .ldSt x => formatXK 0xF#4 x 0x18#8
  | .addI x => formatXK 0xF#4 x 0x1E#8
  | .ldF x => formatXK 0xF#4 x 0x29#8
  | .ldB x => formatXK 0xF#4 x 0x33#8
  | .storeRegs x => formatXK 0xF#4 x 0x55#8
  | .loadRegs x => formatXK 0xF#4 x 0x65#8
  | .nopClass0 nnn => formatA 0x0#4 nnn
  | .nopClass5 x y n => formatXYN 0x5#4 x y n
  | .nop8xy8 x y => formatXYN 0x8#4 x y 0x8#4
  | .nop8xy9 x y => formatXYN 0x8#4 x y 0x9#4
  | .nop8xyA x y => formatXYN 0x8#4 x y 0xA#4
  | .nop8xyB x y => formatXYN 0x8#4 x y 0xB#4
  | .nop8xyC x y => formatXYN 0x8#4 x y 0xC#4
  | .nop8xyD x y => formatXYN 0x8#4 x y 0xD#4
  | .nop8xyF x y => formatXYN 0x8#4 x y 0xF#4
  | .nopClass9 x y n => formatXYN 0x9#4 x y n
  | .nopClassE x kk => formatXK 0xE#4 x kk
  | .nopClassF x kk => formatXK 0xF#4 x kk

/-- The bytes of an instruction as memory holds them, high byte first (R72). -/
def encodeBytes (i : Instr) : List Byte :=
  [(encode i).extractLsb' 8 8, (encode i).extractLsb' 0 8]

/-- The decoder's answer on a word of spec/opcode_table.json, laid out high byte first (R72). Bits at
or above `nbits` are 0; the longest instruction is one 16-bit word (R100), so a longer row has no
instruction (log 20). -/
def decodeTableWord (nbits w : Nat) : Option Instr :=
  if 16 < nbits then none
  else
    let word := BitVec.ofNat 16 (w % 2 ^ nbits)
    match decodeBytes [word.extractLsb' 8 8, word.extractLsb' 0 8] with
    | .ok (i, _) => some i
    | .error _ => none

end Sys2Proof
end

