-- ==== Sys2Proof/Config.lean ====
section
/-! DEFINITION. The parameters the spec leaves open (spec/00_scope.md R9) and the free values.
The parameters are plain data and stand in State's field `cfg`, so that a claim about every state
quantifies over them (log 7); no step, port or fault changes them (log 22). `IPF` is an argument of
the driver's frame (log 16). -/

namespace Sys2Proof

/-- Which write wins when an ALU result and its flag both target VF (R9, R180; 92 D7). -/
inductive VfOrder where
  | flagLast
  | resultLast
  deriving DecidableEq, Repr, Inhabited

/-- The middle digit of `LD B, Vx` (R9, R235; 92 D8). -/
inductive BcdMode where
  | observed
  | decimal
  deriving DecidableEq, Repr, Inhabited

/-- `FONT`: 16 glyphs of 5 bytes, glyph `g` at `5*g` (R9, R41). -/
abbrev Font := Vector (Vector Byte 5) 16

/-- The parameters of R9 that an instruction or reset depends on. -/
structure Config where
  vfOrder : VfOrder
  bcdMode : BcdMode
  font    : Font
  deriving DecidableEq, Repr, Inhabited

/-- FREE VALUE. The byte the `rnd` port supplies at the n-th execution of `RND Vx, kk`
(R68, R200; 92 D17; log 8). It has no body: a claim holds for every stream of bytes. -/
opaque Config.rnd : Nat → Byte

end Sys2Proof
end

