-- ==== Sys2Proof/Machine/Defaults.lean ====
section
/-! DEFINITION. The spec's default parameters (spec/00_scope.md R9) and what a byte of memory that
nothing has written reads as (spec/10_state.md R41, R55; log 5, log 6). -/

namespace Sys2Proof.Machine

/-- The standard font, one row a glyph (R41; the spec's default for `FONT`, 92 D25; log 6). -/
def standardFont : Font := #v[
  #v[0xF0#8, 0x90#8, 0x90#8, 0x90#8, 0xF0#8],
  #v[0x20#8, 0x60#8, 0x20#8, 0x20#8, 0x70#8],
  #v[0xF0#8, 0x10#8, 0xF0#8, 0x80#8, 0xF0#8],
  #v[0xF0#8, 0x10#8, 0xF0#8, 0x10#8, 0xF0#8],
  #v[0x90#8, 0x90#8, 0xF0#8, 0x10#8, 0x10#8],
  #v[0xF0#8, 0x80#8, 0xF0#8, 0x10#8, 0xF0#8],
  #v[0xF0#8, 0x80#8, 0xF0#8, 0x90#8, 0xF0#8],
  #v[0xF0#8, 0x10#8, 0x20#8, 0x40#8, 0x40#8],
  #v[0xF0#8, 0x90#8, 0xF0#8, 0x90#8, 0xF0#8],
  #v[0xF0#8, 0x90#8, 0xF0#8, 0x10#8, 0xF0#8],
  #v[0xF0#8, 0x90#8, 0xF0#8, 0x90#8, 0x90#8],
  #v[0xE0#8, 0x90#8, 0xE0#8, 0x90#8, 0xE0#8],
  #v[0xF0#8, 0x80#8, 0x80#8, 0x80#8, 0xF0#8],
  #v[0xE0#8, 0x90#8, 0x90#8, 0x90#8, 0xE0#8],
  #v[0xF0#8, 0x80#8, 0xF0#8, 0x80#8, 0xF0#8],
  #v[0xF0#8, 0x80#8, 0xF0#8, 0x80#8, 0x80#8]]

/-- Byte `j` of a font, 0 beyond its 80 bytes: byte `j mod 5` of glyph `j div 5` (R41). -/
def fontByte (f : Font) (j : Nat) : Byte :=
  if h : j / 5 < 16 then (f[j / 5]'h)[j % 5]'(Nat.mod_lt j (by decide)) else 0#8

/-- The spec's defaults: `flag_last`, `observed`, the standard font (R9). -/
def defaultConfig : Config :=
  { vfOrder := .flagLast, bcdMode := .observed, font := standardFont }

/-- What an address that memory does not list reads as: the standard font at 0x000 to 0x04F, the
reset contents there (R55), and 0 elsewhere, where the spec gives none (DESIGN CHOICE, log 5). -/
def background (a : Nat) : Byte := fontByte standardFont a

end Sys2Proof.Machine
end

