-- ==== Sys2Proof/Machine/State.lean ====
section
/-! DEFINITION. The state of the CORE, its faults and refusals, and the state after reset
(spec/10_state.md; spec/60_exceptions.md R311, R314; spec/70_reset_and_hazards.md R370). -/

namespace Sys2Proof.Machine

/-- The ways the machine stops. Each is a model fault of R314; all are SAFE, since the source gives
these accesses no meaning and the model admits no run past them (92 D1, D2, D3). -/
inductive Fault where
  /-- F1, raised by the fetch of any step when `PC ≥ 0x0FFF`; records `PC` (R72, R314). Safe. -/
  | fetchOutOfBounds (pc : Word)
  /-- F2, raised by DRW, LD B, LD [I] and LD Vx,[I] at the first byte address `≥ 0x1000`; records the
  instruction's address and that byte address (R73, R314). Safe. -/
  | memoryOutOfBounds (instrAddr : Word) (byteAddr : Nat)
  /-- F3, raised by SKP and SKNP when `V[x] ≥ 16`; records the instruction's address and `V[x]`
  (R280, R281, R314). Safe. -/
  | keyIndexOutOfRange (instrAddr : Word) (vx : Byte)
  deriving DecidableEq, Repr, Inhabited

/-- Why the model gives an instruction no meaning. Every instruction has one, so nothing raises it. -/
inductive Refusal where
  /-- Raised by an arm of `exec` whose instruction has no meaning yet; no arm does. Safe. -/
  | notModelled (mnemonic : String)
  deriving DecidableEq, Repr

/-- What a step that does not fault returns to the host (R311). -/
inductive StepOutcome where
  | ok
  | emptyCallStack
  | callStackOverflow
  deriving DecidableEq, Repr, Inhabited

/-- Memory: the listed bytes, in the canonical form `Memory.wf`; an unlisted address reads as
`background` (R41, R70). -/
abbrev Memory := List Host.Cell

/-- The framebuffer `Fb[px][py]`: 64 columns of 32 pixels (R43). -/
abbrev Framebuffer := Vector (Vector Bool 32) 64

/-- The state the spec gives the CORE (R30 to R55). The last three fields are the model's own: what
the last step returned (log 9), the index of the next random byte (log 8) and the parameters of R9
(log 7). -/
structure State where
  /-- V0 to VF (R30). -/
  v : Vector Byte 16
  /-- The index register `I` (R39). -/
  i : Word
  /-- The program counter (R35). -/
  pc : Word
  /-- The stack pointer, 0 to 16 (R40). -/
  sp : Fin 17
  /-- The call stack (R40). -/
  stack : Vector Word 16
  /-- The 4096 bytes of memory (R41). -/
  mem : Memory
  /-- The framebuffer (R43). -/
  fb : Framebuffer
  /-- The key states (R44). -/
  key : Vector Bool 16
  /-- The latched-key slot (R45). -/
  latch : Option Nibble
  /-- The blocking-read request flag (R46). -/
  pending : Bool
  /-- The delay timer (R47). -/
  dt : Byte
  /-- The sound timer (R48). -/
  st : Byte
  /-- The sticky fault mark (R55, R314). -/
  faultMark : Option Fault
  /-- MODEL'S OWN: the outcome the last step returned to the host (R311; log 9). -/
  outcome : StepOutcome
  /-- MODEL'S OWN: how many random bytes have been drawn (R68; log 8). -/
  rndIndex : Nat
  /-- MODEL'S OWN: the parameters, which no step changes (R9; log 7). -/
  cfg : Config
  deriving DecidableEq, Repr, Inhabited

/-- A step's answer in the host's form. -/
abbrev Result := Host.Outcome State Fault Refusal

/-- The state after reset: `SP`, `Stack`, `I`, `PC`, the font and the fault mark as R55 and R370 say.
The launch inputs are at the spec's clean-launch premise (92 D11), memory outside the font at 0:
DESIGN CHOICE, logs 1 to 5. -/
def State.reset : State :=
  { v := Vector.replicate 16 0#8
    i := 0x0000#16
    pc := 0x0200#16
    sp := 0
    stack := Vector.replicate 16 0x0000#16
    mem := []
    fb := Vector.replicate 64 (Vector.replicate 32 false)
    key := Vector.replicate 16 false
    latch := none
    pending := false
    dt := 0#8
    st := 0#8
    faultMark := none
    outcome := .ok
    rndIndex := 0
    cfg := defaultConfig }

end Sys2Proof.Machine
end

