-- ==== Sys2Proof/Machine/Ops.lean ====
section
/-! DEFINITION. The shared operations over memory, registers, the program counter and the call
stack, and the two ways a step fails (spec/20_memory.md, spec/40_control_flow.md,
spec/60_exceptions.md). -/

namespace Sys2Proof.Machine

/-- The number of bytes of memory (R8). -/
def memSize : Nat := 0x1000

/-! ## Memory as data (R41, R76) -/

/-- The byte at an address: the listed one, or `background`. -/
def Memory.read : Memory → Nat → Byte
  | [], a => background a
  | (k, b) :: rest, a => if k = a then b else Memory.read rest a

/-- Store one byte and keep the canonical form: storing what an unlisted address reads as removes the
entry. It changes only the byte written (R76). -/
def Memory.write : Memory → Nat → Byte → Memory
  | [], a, v => if v = background a then [] else [(a, v)]
  | (k, b) :: rest, a, v =>
    if k < a then (k, b) :: Memory.write rest a v
    else if k = a then (if v = background a then rest else (a, v) :: rest)
    else if v = background a then (k, b) :: rest
    else (a, v) :: (k, b) :: rest

/-- The canonical form of the entries from address `lo` on. -/
def Memory.wfFrom (lo : Nat) : Memory → Bool
  | [] => true
  | (k, b) :: rest =>
    decide (lo ≤ k) && decide (k < memSize) && b != background k && Memory.wfFrom (k + 1) rest

/-- The canonical form: addresses strictly rising, all below 0x1000, no entry equal to what an
unlisted address reads as. -/
def Memory.wf (m : Memory) : Bool := Memory.wfFrom 0 m

/-! ## Data accesses (R13, R73) -/

/-- `MemRead(addr, 1)`; an address outside memory is the error, by the address. -/
def memRead (m : Memory) (a : Nat) : Except Nat Byte :=
  if a < memSize then .ok (m.read a) else .error a

/-- `MemWrite(addr, 1, v)`; an address outside memory is the error, by the address. -/
def memWrite (m : Memory) (a : Nat) (v : Byte) : Except Nat Memory :=
  if a < memSize then .ok (m.write a v) else .error a

/-- `k` byte reads from `a` in ascending order, up to the first that fails (R77, R317). -/
def readBlock (m : Memory) (a : Nat) : Nat → Except Nat (List Byte)
  | 0 => .ok []
  | k + 1 =>
    match memRead m a with
    | .error e => .error e
    | .ok b =>
      match readBlock m (a + 1) k with
      | .error e => .error e
      | .ok bs => .ok (b :: bs)

/-- Byte writes from `a` in ascending order, up to the first that fails (R77, R317). -/
def writeBlock (m : Memory) (a : Nat) : List Byte → Except Nat Memory
  | [] => .ok m
  | b :: bs =>
    match memWrite m a b with
    | .error e => .error e
    | .ok m' => writeBlock m' (a + 1) bs

/-- Byte writes with no range check, for the host's ports, whose ranges are fixed (R370, R372). -/
def installBytes (m : Memory) (a : Nat) : List Byte → Memory
  | [] => m
  | b :: bs => installBytes (m.write a b) (a + 1) bs

/-- The byte of memory at an address, as the model reads it. -/
def State.readByte (s : State) (a : Nat) : Byte := s.mem.read a

/-! ## General registers (R30, R31) -/

/-- `V[x]`. -/
def State.reg (s : State) (x : Nibble) : Byte := s.v[x.toNat]'x.isLt

/-- `V[x] <- b`. -/
def State.setReg (s : State) (x : Nibble) (b : Byte) : State :=
  { s with v := s.v.set x.toNat b x.isLt }

/-- `V[j] <- bs[0]`, `V[j+1] <- bs[1]`, … in ascending order; no register lies beyond V[15]. -/
def setRegBlock (v : Vector Byte 16) (j : Nat) : List Byte → Vector Byte 16
  | [] => v
  | b :: bs => setRegBlock (v.setIfInBounds j b) (j + 1) bs

/-! ## Program counter (R35, R36, R140) -/

/-- Skip: `PC <- (PC + 2) mod 2^16` (R140). -/
def State.skip (s : State) : State := { s with pc := s.pc + 2#16 }

/-- Skip when the condition holds (R155 to R158, R280, R281). -/
def State.skipIf (s : State) (c : Bool) : State := if c then s.skip else s

/-- `PC <- (PC - 2) mod 2^16`: the same instruction runs again (R285). -/
def State.rewind (s : State) : State := { s with pc := s.pc - 2#16 }

/-- `PC <- target`. -/
def State.jump (s : State) (target : Word) : State := { s with pc := target }

/-- The address `a` of the instruction being executed: `PC` is `a + 2` (R35, R140). -/
def State.instrAddr (s : State) : Word := s.pc - 2#16

/-! ## The two ways a step fails

The CORE has no trap: a failure never transfers control inside the machine, saves nothing and has no
return from it (R310, R315). -/

/-- `return Err(kind)`: the state before the step with `PC = a + 2`, and the outcome (R311, R315). -/
def returnErr (e : StepOutcome) (s : State) : Result := .next { s with outcome := e }

/-- `raise Fault(MemoryOutOfBounds)` with the values R314 records. -/
def raiseMemoryFault (s : State) (addr : Nat) : Result :=
  .fault (.memoryOutOfBounds s.instrAddr addr)

/-- `raise Fault(KeyIndexOutOfRange)` with the values R314 records. -/
def raiseKeyFault (s : State) (vx : Byte) : Result :=
  .fault (.keyIndexOutOfRange s.instrAddr vx)

/-! ## Call stack (R40, R141, R150) -/

/-- RET's effect: pop into `PC`, or fail with `EmptyCallStack` (R141). -/
def popCall (s : State) : Result :=
  if h : s.sp.val = 0 then returnErr .emptyCallStack s
  else
    .next { s with
      sp := ⟨s.sp.val - 1, by omega⟩
      pc := s.stack[s.sp.val - 1]'(by omega) }

/-- CALL's effect: push `PC` and jump, or fail with `CallStackOverflow` (R150). -/
def pushCall (target : Word) (s : State) : Result :=
  if h : s.sp.val = 16 then returnErr .callStackOverflow s
  else
    .next { s with
      stack := s.stack.set s.sp.val s.pc (by omega)
      sp := ⟨s.sp.val + 1, by omega⟩
      pc := target }

/-! ## Fetch (R72) -/

/-- The word at `PC`, high byte first, or `FetchOutOfBounds`; it does not advance `PC`. -/
def fetch (s : State) : Except Fault Word :=
  if memSize ≤ s.pc.toNat + 1 then .error (.fetchOutOfBounds s.pc)
  else .ok (s.readByte s.pc.toNat ++ s.readByte (s.pc.toNat + 1))

/-- The state an instruction's rule starts from: `PC = a + 2` (R35, R72). A step that reaches its end
with no failure returns `Ok`, so the outcome starts as `ok` (R13; log 9). -/
def State.beginStep (s : State) : State := { s with pc := s.pc + 2#16, outcome := .ok }

/-! ## Numeric codes (R311, R314) -/

/-- The code of an outcome (R311; 92 D13). -/
def StepOutcome.code : StepOutcome → Nat
  | .ok => 0
  | .emptyCallStack => 1
  | .callStackOverflow => 2

/-- The number `k` of a fault's code `Fk` (R314). -/
def Fault.code : Fault → Nat
  | .fetchOutOfBounds _ => 1
  | .memoryOutOfBounds _ _ => 2
  | .keyIndexOutOfRange _ _ => 3

end Sys2Proof.Machine
end

