-- ==== Sys2Proof/Machine/Operands.lean ====
section
/-! DEFINITION. Operand forms (spec/30_encoding.md R103; spec/42_index_memory.md R229): addresses
formed from `I` or `V0`, key indices, decimal digits, register blocks and the random byte. -/

namespace Sys2Proof.Machine

/-- `zext_16(nnn)` (R103). -/
def zextAddr (nnn : Addr12) : Word := nnn.setWidth 16

/-- `zext_16(V[x])` (R103). -/
def zextByte (b : Byte) : Word := b.setWidth 16

/-- The target of `JP V0, nnn`: `(nnn + V[0]) mod 2^16` (R160). -/
def State.offsetTarget (s : State) (nnn : Addr12) : Word := zextAddr nnn + zextByte (s.reg 0#4)

/-- The effective address `I + 0`, an integer: later bytes are at `I + i` with no wrap (R73, R229). -/
def State.indexAddr (s : State) : Nat := s.i.toNat

/-- The address of the glyph for the low nibble of `b`: `0x000 + 5 * (b & 0xF)` (R232). -/
def glyphAddr (b : Byte) : Word := BitVec.ofNat 16 (5 * (b.toNat % 16))

/-- The key a byte names, or none when it is 16 or more (R280, R281). -/
def keyOfByte (b : Byte) : Option Nibble :=
  if b.toNat < 16 then some (BitVec.ofNat 4 b.toNat) else none

/-- The three digits LD B stores: hundreds, the middle digit by `BCD_MODE`, ones (R235). -/
def bcdDigits (mode : BcdMode) (v : Byte) : List Byte :=
  [BitVec.ofNat 8 (v.toNat / 100),
   match mode with
   | .observed => 0#8
   | .decimal => BitVec.ofNat 8 (v.toNat / 10 % 10),
   BitVec.ofNat 8 (v.toNat % 10)]

/-- `V[0]` to `V[x]`, `x` included (R240). -/
def State.regBlock (s : State) (x : Nibble) : List Byte := s.v.toList.take (x.toNat + 1)

/-- The byte the `rnd` port supplies to this execution: a free value (R68; log 8). -/
def State.rndByte (s : State) : Byte := Config.rnd s.rndIndex

/-- The draw takes the byte: the next execution gets another one (R68). -/
def State.drawRnd (s : State) : State := { s with rndIndex := s.rndIndex + 1 }

end Sys2Proof.Machine
end

