-- ==== Sys2Proof/Machine/Control.lean ====
section
/-! DEFINITION. Control flow: RET, jumps, CALL, skips and the no-ops of classes 0, 5 and 9
(spec/40_control_flow.md R140 to R160). The state given is the one after the fetch's advance. -/

namespace Sys2Proof.Machine

/-- A no-op: `PC` stays `a + 2` and nothing else changes (R106). -/
def noop (s : State) : Result := .next s

/-- RET (R141). -/
def execRet (s : State) : Result := popCall s

/-- JP nnn (R145). -/
def execJp (nnn : Addr12) (s : State) : Result := .next (s.jump (zextAddr nnn))

/-- CALL nnn (R150). -/
def execCall (nnn : Addr12) (s : State) : Result := pushCall (zextAddr nnn) s

/-- SE Vx, kk (R155). -/
def execSeImm (x : Nibble) (kk : Byte) (s : State) : Result := .next (s.skipIf (s.reg x == kk))

/-- SNE Vx, kk (R156). -/
def execSneImm (x : Nibble) (kk : Byte) (s : State) : Result := .next (s.skipIf (s.reg x != kk))

/-- SE Vx, Vy (R157). -/
def execSeReg (x y : Nibble) (s : State) : Result := .next (s.skipIf (s.reg x == s.reg y))

/-- SNE Vx, Vy (R158). -/
def execSneReg (x y : Nibble) (s : State) : Result := .next (s.skipIf (s.reg x != s.reg y))

/-- JP V0, nnn (R160). -/
def execJpV0 (nnn : Addr12) (s : State) : Result := .next (s.jump (s.offsetTarget nnn))

/-- `0nnn` other than `00E0` and `00EE`: no operation (R142). -/
def execNopClass0 (_nnn : Addr12) (s : State) : Result := noop s

/-- `5xyN` with `N ≠ 0`: no operation (R159). -/
def execNopClass5 (_x _y _n : Nibble) (s : State) : Result := noop s

/-- `9xyN` with `N ≠ 0`: no operation (R159). -/
def execNopClass9 (_x _y _n : Nibble) (s : State) : Result := noop s

end Sys2Proof.Machine
end

