-- ==== Sys2Proof/Machine/Flags.lean ====
section
/-! DEFINITION. The flag register VF: what each form writes into it, and the order of the result and
flag writes (spec/10_state.md R32; spec/41_arithmetic.md R180, R189 to R193). -/

namespace Sys2Proof.Machine

/-- The index of VF (R32). -/
def vf : Nibble := 15#4

/-- A Boolean as the 0 or 1 a register stores (R11). -/
def flagByte (b : Bool) : Byte := if b then 1#8 else 0#8

/-- `WriteResultFlag(x, r, f)` (R180). -/
def State.writeResultFlag (s : State) (x : Nibble) (r f : Byte) : State :=
  match s.cfg.vfOrder with
  | .flagLast => (s.setReg x r).setReg vf f
  | .resultLast => (s.setReg vf f).setReg x r

/-- ADD's carry: 1 when the sum is above 255 (R189). -/
def carryFlag (a b : Byte) : Byte := flagByte (decide (255 < a.toNat + b.toNat))

/-- The NOT-borrow of `a - b`: 1 when `a ≥ b` (R190, R192). -/
def noBorrowFlag (a b : Byte) : Byte := flagByte (decide (b.toNat ≤ a.toNat))

/-- SHR's flag: bit 0 before the shift (R191). -/
def lowBit (a : Byte) : Byte := flagByte (a.getLsbD 0)

/-- SHL's flag: bit 7 before the shift (R193). -/
def highBit (a : Byte) : Byte := flagByte (a.getLsbD 7)

end Sys2Proof.Machine
end

