-- ==== Sys2Proof/Machine/Arith.lean ====
section
/-! DEFINITION. Arithmetic and logic: immediates, the register-register group, the no-ops of class 8,
and RND (spec/41_arithmetic.md R180 to R205). Operands are read before any write (R14). -/

namespace Sys2Proof.Machine

/-- LD Vx, kk (R181). -/
def execLdImm (x : Nibble) (kk : Byte) (s : State) : Result := .next (s.setReg x kk)

/-- ADD Vx, kk: no flag (R182). -/
def execAddImm (x : Nibble) (kk : Byte) (s : State) : Result := .next (s.setReg x (s.reg x + kk))

/-- LD Vx, Vy (R185). -/
def execLdReg (x y : Nibble) (s : State) : Result := .next (s.setReg x (s.reg y))

/-- OR Vx, Vy: no flag (R186). -/
def execOr (x y : Nibble) (s : State) : Result := .next (s.setReg x (s.reg x ||| s.reg y))

/-- AND Vx, Vy: no flag (R187). -/
def execAnd (x y : Nibble) (s : State) : Result := .next (s.setReg x (s.reg x &&& s.reg y))

/-- XOR Vx, Vy: no flag (R188). -/
def execXor (x y : Nibble) (s : State) : Result := .next (s.setReg x (s.reg x ^^^ s.reg y))

/-- ADD Vx, Vy, carry in VF (R189). -/
def execAddReg (x y : Nibble) (s : State) : Result :=
  .next (s.writeResultFlag x (s.reg x + s.reg y) (carryFlag (s.reg x) (s.reg y)))

/-- SUB Vx, Vy, NOT-borrow in VF (R190). -/
def execSub (x y : Nibble) (s : State) : Result :=
  .next (s.writeResultFlag x (s.reg x - s.reg y) (noBorrowFlag (s.reg x) (s.reg y)))

/-- SHR Vx: `y` is ignored (R191). -/
def execShr (x _y : Nibble) (s : State) : Result :=
  .next (s.writeResultFlag x (s.reg x >>> 1) (lowBit (s.reg x)))

/-- SUBN Vx, Vy, NOT-borrow in VF (R192). -/
def execSubn (x y : Nibble) (s : State) : Result :=
  .next (s.writeResultFlag x (s.reg y - s.reg x) (noBorrowFlag (s.reg y) (s.reg x)))

/-- SHL Vx: `y` is ignored (R193). -/
def execShl (x _y : Nibble) (s : State) : Result :=
  .next (s.writeResultFlag x (s.reg x <<< 1) (highBit (s.reg x)))

/-- RND Vx, kk: the random byte is a free value (R200; log 8). -/
def execRnd (x : Nibble) (kk : Byte) (s : State) : Result :=
  .next (s.drawRnd.setReg x (s.rndByte &&& kk))

/-- `8xy8`: no operation (R194). -/
def execNop8xy8 (_x _y : Nibble) (s : State) : Result := noop s

/-- `8xy9`: no operation (R194). -/
def execNop8xy9 (_x _y : Nibble) (s : State) : Result := noop s

/-- `8xyA`: no operation (R194). -/
def execNop8xyA (_x _y : Nibble) (s : State) : Result := noop s

/-- `8xyB`: no operation (R194). -/
def execNop8xyB (_x _y : Nibble) (s : State) : Result := noop s

/-- `8xyC`: no operation (R194). -/
def execNop8xyC (_x _y : Nibble) (s : State) : Result := noop s

/-- `8xyD`: no operation (R194). -/
def execNop8xyD (_x _y : Nibble) (s : State) : Result := noop s

/-- `8xyF`: no operation (R194). -/
def execNop8xyF (_x _y : Nibble) (s : State) : Result := noop s

end Sys2Proof.Machine
end

