-- ==== Sys2Proof/Machine/Devices.lean ====
section
/-! DEFINITION. The contracts of the three devices of the CORE: framebuffer, input latch, timers
(spec/60_exceptions.md R330 to R347). -/

namespace Sys2Proof.Machine

/-! ## Framebuffer (R330, R331) -/

/-- The pixel at coordinates reduced modulo 64 and 32 (R331). -/
def Framebuffer.pixel (fb : Framebuffer) (px py : Nat) : Bool :=
  (fb[px % 64]'(Nat.mod_lt px (by decide)))[py % 32]'(Nat.mod_lt py (by decide))

/-- Replace the pixel at coordinates reduced modulo 64 and 32. -/
def Framebuffer.setPixel (fb : Framebuffer) (px py : Nat) (b : Bool) : Framebuffer :=
  fb.set (px % 64)
    ((fb[px % 64]'(Nat.mod_lt px (by decide))).set (py % 32) b (Nat.mod_lt py (by decide)))
    (Nat.mod_lt px (by decide))

/-- `Clear()`: every pixel off (R330). -/
def Framebuffer.clear : Framebuffer := Vector.replicate 64 (Vector.replicate 32 false)

/-- `Toggle(px, py, b)`: XOR `b` into the pixel; the collision is (pixel lit) AND `b` (R331). -/
def Framebuffer.toggle (fb : Framebuffer) (px py : Nat) (b : Bool) : Framebuffer × Bool :=
  (fb.setPixel px py (fb.pixel px py ^^ b), fb.pixel px py && b)

/-- The first `k` columns of one sprite row, most significant bit first; the flag collects the
collisions (R262). -/
def drawCols (px py : Nat) (row : Byte) : Nat → Framebuffer × Bool → Framebuffer × Bool
  | 0, acc => acc
  | k + 1, acc =>
    let done := drawCols px py row k acc
    let one := done.1.toggle (px + k) py (row.getLsbD (7 - k))
    (one.1, done.2 || one.2)

/-- The rows of a sprite from row `py` on, in ascending order (R262). -/
def drawRows (px : Nat) : Nat → List Byte → Framebuffer × Bool → Framebuffer × Bool
  | _, [], acc => acc
  | py, row :: rows, acc => drawRows px (py + 1) rows (drawCols px py row 8 acc)

/-! ## Input latch (R342 to R344) -/

/-- `IsPressed(k)` (R343). -/
def State.isPressed (s : State) (k : Nibble) : Bool := s.key[k.toNat]'k.isLt

/-- `SetKey(k, pressed)` (R342). -/
def State.setKey (s : State) (k : Nibble) (pressed : Bool) : State :=
  { s with
    key := s.key.set k.toNat pressed k.isLt
    latch := if pressed && s.latch.isNone then some k else s.latch }

/-- `PollBlockingRead()`: the key delivered, if any, and the state after the poll (R344). -/
def State.pollBlockingRead (s : State) : Option Nibble × State :=
  if s.pending then
    match s.latch with
    | some k => (some k, { s with latch := none, pending := false })
    | none => (none, s)
  else (none, { s with pending := true })

/-! ## Timers (R346) -/

/-- `Tick(t)`: one less, and 0 stays 0 (R346). -/
def tickTimer (t : Byte) : Byte := if t = 0#8 then 0#8 else t - 1#8

end Sys2Proof.Machine
end

