-- ==== Sys2Proof/Machine/Display.lean ====
section
/-! DEFINITION. The display instructions CLS and DRW (spec/43_display.md R260 to R265). -/

namespace Sys2Proof.Machine

/-- CLS (R260). -/
def execCls (s : State) : Result := .next { s with fb := Framebuffer.clear }

/-- Draw sprite rows at (`V[x]`, `V[y]`) and write the collision flag into VF; the coordinates are
read before VF is written (R14, R262). -/
def drawSprite (x y : Nibble) (rows : List Byte) (s : State) : State :=
  let drawn := drawRows (s.reg x).toNat (s.reg y).toNat rows (s.fb, false)
  { s with fb := drawn.1 }.setReg vf (flagByte drawn.2)

/-- DRW Vx, Vy, n: the `n` rows are the bytes from `I` on (R262). -/
def execDrw (x y n : Nibble) (s : State) : Result :=
  match readBlock s.mem s.indexAddr n.toNat with
  | .ok rows => .next (drawSprite x y rows s)
  | .error addr => raiseMemoryFault s addr

end Sys2Proof.Machine
end

