-- ==== Sys2Proof/Machine/Index.lean ====
section
/-! DEFINITION. The index register and memory transfers (spec/42_index_memory.md R229 to R241). -/

namespace Sys2Proof.Machine

/-- Store bytes from `I` on, or fault at the first address outside memory; `I` is unchanged
(R229, R73). -/
def storeAtIndex (s : State) (bytes : List Byte) : Result :=
  match writeBlock s.mem s.indexAddr bytes with
  | .ok m => .next { s with mem := m }
  | .error addr => raiseMemoryFault s addr

/-- LD I, nnn (R230). -/
def execLdI (nnn : Addr12) (s : State) : Result := .next { s with i := zextAddr nnn }

/-- ADD I, Vx: modulo 2^16, no flag (R231). -/
def execAddI (x : Nibble) (s : State) : Result := .next { s with i := s.i + zextByte (s.reg x) }

/-- LD F, Vx (R232). -/
def execLdF (x : Nibble) (s : State) : Result := .next { s with i := glyphAddr (s.reg x) }

/-- LD B, Vx (R235). -/
def execLdB (x : Nibble) (s : State) : Result :=
  storeAtIndex s (bcdDigits s.cfg.bcdMode (s.reg x))

/-- LD [I], Vx (R240). -/
def execStoreRegs (x : Nibble) (s : State) : Result := storeAtIndex s (s.regBlock x)

/-- LD Vx, [I] (R241). -/
def execLoadRegs (x : Nibble) (s : State) : Result :=
  match readBlock s.mem s.indexAddr (x.toNat + 1) with
  | .ok bytes => .next { s with v := setRegBlock s.v 0 bytes }
  | .error addr => raiseMemoryFault s addr

end Sys2Proof.Machine
end

