-- ==== Sys2Proof/Machine/Input.lean ====
section
/-! DEFINITION. Key skips, the blocking key read, timer transfers and the no-ops of classes E and F
(spec/44_input_timers.md R280 to R295). -/

namespace Sys2Proof.Machine

/-- Skip when the state of the key that `V[x]` names is `want`; an index of 16 or more faults
(R280, R281). -/
def skipOnKey (x : Nibble) (want : Bool) (s : State) : Result :=
  match keyOfByte (s.reg x) with
  | none => raiseKeyFault s (s.reg x)
  | some k => .next (s.skipIf (s.isPressed k == want))

/-- SKP Vx (R280). -/
def execSkp (x : Nibble) (s : State) : Result := skipOnKey x true s

/-- SKNP Vx (R281). -/
def execSknp (x : Nibble) (s : State) : Result := skipOnKey x false s

/-- LD Vx, K: a key is delivered, or `PC` goes back to this instruction (R285). -/
def execLdKey (x : Nibble) (s : State) : Result :=
  match s.pollBlockingRead with
  | (some k, t) => .next (t.setReg x (k.setWidth 8))
  | (none, t) => .next t.rewind

/-- LD Vx, DT (R290). -/
def execLdFromDt (x : Nibble) (s : State) : Result := .next (s.setReg x s.dt)

/-- LD DT, Vx (R291). -/
def execLdDt (x : Nibble) (s : State) : Result := .next { s with dt := s.reg x }

/-- LD ST, Vx (R292). -/
def execLdSt (x : Nibble) (s : State) : Result := .next { s with st := s.reg x }

/-- `Exkk` with another low byte: no operation, and `V[x]` is not read (R282). -/
def execNopClassE (_x : Nibble) (_kk : Byte) (s : State) : Result := noop s

/-- `Fxkk` with another low byte: no operation (R295). -/
def execNopClassF (_x : Nibble) (_kk : Byte) (s : State) : Result := noop s

end Sys2Proof.Machine
end

