-- ==== Sys2Proof/Machine/Step.lean ====
section
/-! DEFINITION. One step of the engine: fetch, advance, decode, execute (spec/10_state.md R61;
spec/20_memory.md R72). -/

namespace Sys2Proof.Machine

/-- One transaction on the `step` port. A state whose fault mark is set has no further step (R314);
the fetch's range is checked before decode (R317). -/
def step (s : State) : Host.Outcome State Fault Refusal :=
  match s.faultMark with
  | some f => .fault f
  | none =>
    match fetch s with
    | .error f => .fault f
    | .ok w => exec (decode w) s.beginStep

/-- The state with an instruction's word stored where the next step fetches, high byte first. A word
that would not lie inside memory is not stored, since no such byte exists (R72; log 13). -/
def State.withFetchWord (s : State) (nbits w : Nat) : State :=
  if s.pc.toNat + 1 < memSize then
    let word := BitVec.ofNat 16 (w % 2 ^ nbits)
    let bytes := [word.extractLsb' 8 8, word.extractLsb' 0 8]
    { s with mem := installBytes s.mem s.pc.toNat bytes }
  else s

end Sys2Proof.Machine
end

