-- ==== Sys2Proof/Machine/Ports.lean ====
section
/-! DEFINITION. The CORE's ports other than `step`: reset, load, tick, set_key, fb_read, sound
(spec/10_state.md R60 to R67; spec/70_reset_and_hazards.md R370 to R373). -/

namespace Sys2Proof.Machine

/-- The 80 bytes of a font, in address order (R41). -/
def fontBytes (f : Font) : List Byte := (List.range 80).map (fontByte f)

/-- `reset()`: these writes and nothing else (R370, R371). -/
def State.resetPort (s : State) : State :=
  { s with
    sp := 0
    stack := Vector.replicate 16 0x0000#16
    i := 0x0000#16
    pc := 0x0200#16
    mem := installBytes s.mem 0x000 (fontBytes s.cfg.font) }

/-- What `load` returns (R372). -/
inductive LoadOutcome where
  | ok
  | programTooLarge
  deriving DecidableEq, Repr

/-- The largest program, `4096 - 512` bytes (R8). -/
def maxRom : Nat := 4096 - 512

/-- `load(bytes)`: the bytes from 0x200 on, or `ProgramTooLarge` with no change (R372, R373). -/
def State.loadPort (s : State) (bytes : List Byte) : LoadOutcome × State :=
  if maxRom < bytes.length then (.programTooLarge, s)
  else (.ok, { s with mem := installBytes s.mem 0x200 bytes })

/-- `tick()`: DT and ST once each (R63). -/
def State.tickPort (s : State) : State := { s with dt := tickTimer s.dt, st := tickTimer s.st }

/-- `set_key(k, pressed)`; the type admits no `k` outside 0 to 15 (R64; log 17). -/
def State.setKeyPort (s : State) (k : Nibble) (pressed : Bool) : State := s.setKey k pressed

/-- `fb_read`: one pixel, read-only (R66). -/
def State.fbRead (s : State) (px : Fin 64) (py : Fin 32) : Bool := s.fb.pixel px.val py.val

/-- `sound_active`: `ST ≠ 0` (R67). -/
def State.soundActive (s : State) : Bool := s.st != 0#8

/-- The clean-launch premise: every launch input except memory is zero, none or false (R55; 92 D11). -/
def State.cleanLaunch (s : State) : Bool :=
  s.v == Vector.replicate 16 0#8 && s.dt == 0#8 && s.st == 0#8 &&
  s.fb == Framebuffer.clear && s.key == Vector.replicate 16 false &&
  s.latch == none && s.pending == false

end Sys2Proof.Machine
end

