-- ==== Sys2Proof/Machine/Driver.lean ====
section
/-! DEFINITION. The host's side of the ports: a port transaction, the boot order and the frame loop
(spec/60_exceptions.md R314, R350 to R352; spec/70_reset_and_hazards.md R374). -/

namespace Sys2Proof

/-- FREE VALUE. What the registers, memory and framebuffer of a faulted state hold (R314; 93 §1 row 5;
log 11). It has no body: nothing can be proved of these contents. -/
opaque Config.faultedContents : Machine.Fault → Machine.State → Machine.State

namespace Machine

/-- A faulted state: the sticky mark, and unspecified registers (V0 to VF and those of R49), memory and
framebuffer (R314). The key states, which only set_key writes, are as they were (R44). R314 does not
name the parameters of R9, and the fields `outcome` and `rndIndex` are the model's own. DESIGN CHOICE
(log 22): a fault leaves these three as they are. -/
def State.enterFault (s : State) (f : Fault) : State :=
  let free := Config.faultedContents f s
  { s with
    v := free.v, i := free.i, pc := free.pc, sp := free.sp, stack := free.stack
    mem := free.mem, fb := free.fb
    latch := free.latch, pending := free.pending, dt := free.dt, st := free.st
    faultMark := some f }

/-- `step()` as a total transaction: a fault sets the mark, and a state whose mark is set stays as it
is (R314). -/
def State.stepPort (s : State) : State :=
  match s.faultMark with
  | some _ => s
  | none =>
    match step s with
    | .next t => t
    | .fault f => s.enterFault f
    | .refused _ => s

/-- The transactions the host issues that may change state (R60); `fb_read` and `sound` only read. -/
inductive Transaction where
  | step
  | reset
  | load (bytes : List Byte)
  | tick
  | setKey (k : Nibble) (pressed : Bool)
  deriving DecidableEq, Repr

/-- One atomic transaction (R7, R60, R76). -/
def State.apply (s : State) : Transaction → State
  | .step => s.stepPort
  | .reset => s.resetPort
  | .load bytes => (s.loadPort bytes).2
  | .tick => s.tickPort
  | .setKey k pressed => s.setKeyPort k pressed

/-- Construction, reset, load (R371, R374): the argument holds the launch inputs, the mark is clear,
and a program that is too large leaves nothing runnable (R373; log 12). -/
def boot (inputs : State) (rom : List Byte) : Option State :=
  match ({ inputs with faultMark := none, outcome := .ok }.resetPort).loadPort rom with
  | (.ok, s) => some s
  | (.programTooLarge, _) => none

/-- One input event of a frame: the arguments of a `set_key` call (R350 (a)). -/
abbrev KeyEvent := Nibble × Bool

/-- Phase (a): the frame's events in order (R350). -/
def State.applyEvents (s : State) : List KeyEvent → State
  | [] => s
  | (k, pressed) :: rest => (s.setKeyPort k pressed).applyEvents rest

/-- Phase (c): up to `n` steps and their outcomes, stopping at a fault (R350, R351). -/
def State.runSteps (s : State) : Nat → List StepOutcome × State
  | 0 => ([], s)
  | n + 1 =>
    match s.stepPort.faultMark with
    | some _ => ([], s.stepPort)
    | none => (s.stepPort.outcome :: (s.stepPort.runSteps n).1, (s.stepPort.runSteps n).2)

/-- Phase (d): the grid the host draws, every pixel read through `fb_read` (R66, R350). -/
def State.render (s : State) : Framebuffer :=
  Vector.ofFn fun px => Vector.ofFn fun py => s.fbRead px py

/-- What a frame gives the host: the outcomes it logged, and the grid it rendered, none when the mark
is set (R350). -/
structure FrameReport where
  outcomes : List StepOutcome
  grid : Option Framebuffer
  deriving DecidableEq, Repr

/-- One frame: (a) events, (b) one tick, (c) `ipf` steps, (d) render (R350). A fault ends the loop, so
nothing is rendered after it and a marked state has no frame. -/
def State.frame (s : State) (ipf : Nat) (events : List KeyEvent) : FrameReport × State :=
  match s.faultMark with
  | some _ => ({ outcomes := [], grid := none }, s)
  | none =>
    let ran := (s.applyEvents events).tickPort.runSteps ipf
    match ran.2.faultMark with
    | some _ => ({ outcomes := ran.1, grid := none }, ran.2)
    | none => ({ outcomes := ran.1, grid := some ran.2.render }, ran.2)

/-- The loop: frames one after another, each with its own events, up to a fault or the end of the
list, where the host quits (R350, R352). -/
def State.frames (s : State) (ipf : Nat) : List (List KeyEvent) → List FrameReport × State
  | [] => ([], s)
  | events :: rest =>
    match s.faultMark with
    | some _ => ([], s)
    | none =>
      let one := s.frame ipf events
      let more := one.2.frames ipf rest
      (one.1 :: more.1, more.2)

end Machine

end Sys2Proof
end

