-- ==== Sys2Proof/Safety.lean ====
section
/-! DEFINITION. What a good run is (spec/60_exceptions.md R314), the invariant of the model, and the
words the statements use: what an instruction leaves unchanged, and the spec's tables of faults
(R317), of `PC` (R36) and of register writers (R34), written from the spec and not from the
meanings. -/

namespace Sys2Proof.Machine

/-! ## Runs and the invariant -/

/-- The invariant of a state that has not faulted: its memory is in canonical form. Every other
restriction of R51 is kept by the types. -/
def State.Inv (s : State) : Prop := s.mem.wf = true

/-- A good run of `n` steps: none faults and none is refused (R314). -/
def State.Runs (s : State) (n : Nat) : Prop := ∃ t, Sys2Proof.core.run n s = .next t

/-- A step can be taken: no fault mark, and the word at `PC` lies inside memory (R72, R314). -/
def State.CanFetch (s : State) : Prop := s.faultMark = none ∧ s.pc.toNat + 1 < 0x1000

/-- The instruction at `PC` (R72, R105). -/
def State.nextInstr (s : State) : Instr :=
  decode (wordOfBytes (s.readByte s.pc.toNat) (s.readByte (s.pc.toNat + 1)))

/-! ## Frames -/

/-- Every byte of memory reads as before. -/
def State.SameMemory (s t : State) : Prop := ∀ a, t.readByte a = s.readByte a

/-- Every byte outside `[a, a + n)` reads as before. -/
def State.SameMemoryOutside (s t : State) (a n : Nat) : Prop :=
  ∀ b, b < a ∨ a + n ≤ b → t.readByte b = s.readByte b

/-- Every register but those named reads as before. -/
def State.SameRegsBut (s t : State) (changed : List Nibble) : Prop :=
  ∀ r, r ∉ changed → t.reg r = s.reg r

/-- Nothing changes but the registers named: `PC`, memory and every other part are as before. -/
def State.OnlyRegs (s t : State) (changed : List Nibble) : Prop :=
  t = { s with v := t.v } ∧ s.SameRegsBut t changed ∧ s.SameMemory t

/-- `V[x]` receives `r` and VF receives `f`; when `x = 0xF`, `VF_ORDER` decides (R180). Nothing else
changes. -/
def State.ResultAndFlag (s t : State) (x : Nibble) (r f : Nat) : Prop :=
  s.OnlyRegs t [x, vf] ∧
  (x ≠ vf → (t.reg x).toNat = r ∧ (t.reg vf).toNat = f) ∧
  (x = vf → s.cfg.vfOrder = .flagLast → (t.reg vf).toNat = f) ∧
  (x = vf → s.cfg.vfOrder = .resultLast → (t.reg vf).toNat = r)

/-! ## The spec's tables -/

/-- The registers an instruction may write (R34). -/
def writesRegs : Instr → List Nibble
  | .ldImm x _ => [x]
  | .addImm x _ => [x]
  | .ldReg x _ => [x]
  | .orReg x _ => [x]
  | .andReg x _ => [x]
  | .xorReg x _ => [x]
  | .addReg x _ => [x, vf]
  | .subReg x _ => [x, vf]
  | .subnReg x _ => [x, vf]
  | .shr x _ => [x, vf]
  | .shl x _ => [x, vf]
  | .rnd x _ => [x]
  | .drw _ _ _ => [vf]
  | .ldFromDt x => [x]
  | .ldKey x => [x]
  | .loadRegs x => (List.range (x.toNat + 1)).map (BitVec.ofNat 4)
  | _ => []

/-- `PC` after a step that goes on, with `s` the state before it (R36). -/
def State.pcAfter (s : State) : Instr → Word
  | .jp nnn => BitVec.ofNat 16 nnn.toNat
  | .call nnn => if s.sp.val = 16 then s.pc + 2#16 else BitVec.ofNat 16 nnn.toNat
  | .ret =>
    if s.sp.val = 0 then s.pc + 2#16 else (s.stack.toList[s.sp.val - 1]?).getD 0#16
  | .jpV0 nnn => BitVec.ofNat 16 (nnn.toNat + (s.reg 0#4).toNat)
  | .seImm x kk => if s.reg x = kk then s.pc + 4#16 else s.pc + 2#16
  | .sneImm x kk => if s.reg x ≠ kk then s.pc + 4#16 else s.pc + 2#16
  | .seReg x y => if s.reg x = s.reg y then s.pc + 4#16 else s.pc + 2#16
  | .sneReg x y => if s.reg x ≠ s.reg y then s.pc + 4#16 else s.pc + 2#16
  | .skp x =>
    if s.isPressed (BitVec.ofNat 4 (s.reg x).toNat) then s.pc + 4#16 else s.pc + 2#16
  | .sknp x =>
    if s.isPressed (BitVec.ofNat 4 (s.reg x).toNat) then s.pc + 2#16 else s.pc + 4#16
  | .ldKey _ => if s.pending = true ∧ s.latch ≠ none then s.pc + 2#16 else s.pc
  | _ => s.pc + 2#16

/-- The model fault of a block of `n` bytes from `I` on that reaches address 0x1000: it records the
instruction's address, which is `PC` before the step, and the first address out of range (R314,
R317). -/
def State.blockFault (s : State) (n : Nat) : Option Fault :=
  if 0 < n ∧ 0x1000 < s.i.toNat + n then
    some (.memoryOutOfBounds s.pc (max s.i.toNat 0x1000))
  else none

/-- The one condition a decoded instruction can raise as a fault, with `s` the state before the step
(R317, items 2 and 3). -/
def State.faultOf (s : State) : Instr → Option Fault
  | .drw _ _ n => s.blockFault n.toNat
  | .ldB _ => s.blockFault 3
  | .storeRegs x => s.blockFault (x.toNat + 1)
  | .loadRegs x => s.blockFault (x.toNat + 1)
  | .skp x => if 16 ≤ (s.reg x).toNat then some (.keyIndexOutOfRange s.pc (s.reg x)) else none
  | .sknp x => if 16 ≤ (s.reg x).toNat then some (.keyIndexOutOfRange s.pc (s.reg x)) else none
  | _ => none

end Sys2Proof.Machine
end

