-- ==== Sys2Proof/Certificates/Slice0/Obligations.lean ====
section
/-! DEFINITION. The statements for the provers. `exec i s` is taken at the state the fetch leaves:
`s.pc` is the instruction's address plus 2 (spec/10_state.md R35), so "PC unchanged" here is
`a + 2`. -/

open Sys2Proof Sys2Proof.Machine

/-! ## Encoding -/

/-- A few words written out from R102 and R104 decode to their instructions. -/
def Obligations.SpecWordsDecode : Prop :=
  decode 0x00E0#16 = .cls ∧ decode 0x00EE#16 = .ret ∧ decode 0x1234#16 = .jp 0x234#12 ∧
  decode 0x6A02#16 = .ldImm 0xA#4 0x02#8 ∧ decode 0x8AB4#16 = .addReg 0xA#4 0xB#4 ∧
  decode 0xA2F0#16 = .ldI 0x2F0#12 ∧ decode 0xD015#16 = .drw 0#4 1#4 5#4 ∧
  decode 0xE19E#16 = .skp 1#4 ∧ decode 0xF265#16 = .loadRegs 2#4 ∧
  decode 0x0AEE#16 = .nopClass0 0xAEE#12

/-- Decoding an encoded well-formed instruction gives it back, with every operand. -/
def Obligations.DecodeOfEncode : Prop :=
  ∀ i : Instr, i.wellFormed = true → decodeBytes (encodeBytes i) = .ok (i, [])

/-- Every word decodes to a well-formed instruction whose encoding is that word. That no two words
share an instruction and no bit is dropped is the model's choice (log 18): R105 has one `NOP`, and one
SHR(x) and SHL(x) for every `y`. -/
def Obligations.EncodeOfDecode : Prop :=
  ∀ w : Word, encode (decode w) = w ∧ (decode w).wellFormed = true

/-- R105: what each of the 34 patterns decodes to, with every operand at every value; every other word
is a no-op. -/
def Obligations.DecodeFollowsTheMap : Prop :=
  (∀ (nnn : Addr12) (w : Word),
    (w.toNat = 0x00E0 → decode w = .cls) ∧
    (w.toNat = 0x00EE → decode w = .ret) ∧
    (w.toNat = 0x1000 + nnn.toNat → decode w = .jp nnn) ∧
    (w.toNat = 0x2000 + nnn.toNat → decode w = .call nnn) ∧
    (w.toNat = 0xA000 + nnn.toNat → decode w = .ldI nnn) ∧
    (w.toNat = 0xB000 + nnn.toNat → decode w = .jpV0 nnn)) ∧
  (∀ (x : Nibble) (kk : Byte) (w : Word),
    (w.toNat = 0x3000 + 0x100 * x.toNat + kk.toNat → decode w = .seImm x kk) ∧
    (w.toNat = 0x4000 + 0x100 * x.toNat + kk.toNat → decode w = .sneImm x kk) ∧
    (w.toNat = 0x6000 + 0x100 * x.toNat + kk.toNat → decode w = .ldImm x kk) ∧
    (w.toNat = 0x7000 + 0x100 * x.toNat + kk.toNat → decode w = .addImm x kk) ∧
    (w.toNat = 0xC000 + 0x100 * x.toNat + kk.toNat → decode w = .rnd x kk)) ∧
  (∀ (x y n : Nibble) (w : Word),
    (w.toNat = 0x5000 + 0x100 * x.toNat + 0x10 * y.toNat → decode w = .seReg x y) ∧
    (w.toNat = 0x8000 + 0x100 * x.toNat + 0x10 * y.toNat → decode w = .ldReg x y) ∧
    (w.toNat = 0x8001 + 0x100 * x.toNat + 0x10 * y.toNat → decode w = .orReg x y) ∧
    (w.toNat = 0x8002 + 0x100 * x.toNat + 0x10 * y.toNat → decode w = .andReg x y) ∧
    (w.toNat = 0x8003 + 0x100 * x.toNat + 0x10 * y.toNat → decode w = .xorReg x y) ∧
    (w.toNat = 0x8004 + 0x100 * x.toNat + 0x10 * y.toNat → decode w = .addReg x y) ∧
    (w.toNat = 0x8005 + 0x100 * x.toNat + 0x10 * y.toNat → decode w = .subReg x y) ∧
    (w.toNat = 0x8006 + 0x100 * x.toNat + 0x10 * y.toNat → decode w = .shr x y) ∧
    (w.toNat = 0x8007 + 0x100 * x.toNat + 0x10 * y.toNat → decode w = .subnReg x y) ∧
    (w.toNat = 0x800E + 0x100 * x.toNat + 0x10 * y.toNat → decode w = .shl x y) ∧
    (w.toNat = 0x9000 + 0x100 * x.toNat + 0x10 * y.toNat → decode w = .sneReg x y) ∧
    (w.toNat = 0xD000 + 0x100 * x.toNat + 0x10 * y.toNat + n.toNat → decode w = .drw x y n)) ∧
  (∀ (x : Nibble) (w : Word),
    (w.toNat = 0xE09E + 0x100 * x.toNat → decode w = .skp x) ∧
    (w.toNat = 0xE0A1 + 0x100 * x.toNat → decode w = .sknp x) ∧
    (w.toNat = 0xF007 + 0x100 * x.toNat → decode w = .ldFromDt x) ∧
    (w.toNat = 0xF00A + 0x100 * x.toNat → decode w = .ldKey x) ∧
    (w.toNat = 0xF015 + 0x100 * x.toNat → decode w = .ldDt x) ∧
    (w.toNat = 0xF018 + 0x100 * x.toNat → decode w = .ldSt x) ∧
    (w.toNat = 0xF01E + 0x100 * x.toNat → decode w = .addI x) ∧
    (w.toNat = 0xF029 + 0x100 * x.toNat → decode w = .ldF x) ∧
    (w.toNat = 0xF033 + 0x100 * x.toNat → decode w = .ldB x) ∧
    (w.toNat = 0xF055 + 0x100 * x.toNat → decode w = .storeRegs x) ∧
    (w.toNat = 0xF065 + 0x100 * x.toNat → decode w = .loadRegs x)) ∧
  (∀ w : Word, (decode w).isNop = false →
    w.toNat ∈ [0x00E0, 0x00EE] ∨ w.toNat / 0x1000 ∈ [1, 2, 3, 4, 6, 7, 0xA, 0xB, 0xC, 0xD] ∨
    (w.toNat / 0x1000 ∈ [5, 9] ∧ w.toNat % 16 = 0) ∨
    (w.toNat / 0x1000 = 8 ∧ w.toNat % 16 ∈ [0, 1, 2, 3, 4, 5, 6, 7, 0xE]) ∨
    (w.toNat / 0x1000 = 0xE ∧ w.toNat % 256 ∈ [0x9E, 0xA1]) ∨
    (w.toNat / 0x1000 = 0xF ∧
      w.toNat % 256 ∈ [0x07, 0x0A, 0x15, 0x18, 0x1E, 0x29, 0x33, 0x55, 0x65]))

/-- R106: the words of the no-op spaces, and no others, run as no-ops: the step advances `PC` by 2,
changes nothing else and returns `Ok`. -/
def Obligations.NoopSpacesRunAsNoops : Prop :=
  (∀ w : Word, (decode w).isNop = true ↔
    (w.toNat / 4096 = 0 ∧ w.toNat ≠ 0x00E0 ∧ w.toNat ≠ 0x00EE) ∨
    ((w.toNat / 4096 = 5 ∨ w.toNat / 4096 = 9) ∧ w.toNat % 16 ≠ 0) ∨
    (w.toNat / 4096 = 8 ∧ w.toNat % 16 ∈ [0x8, 0x9, 0xA, 0xB, 0xC, 0xD, 0xF]) ∨
    (w.toNat / 4096 = 0xE ∧ w.toNat % 256 ∉ [0x9E, 0xA1]) ∨
    (w.toNat / 4096 = 0xF ∧
      w.toNat % 256 ∉ [0x07, 0x0A, 0x15, 0x18, 0x1E, 0x29, 0x33, 0x55, 0x65])) ∧
  (∀ s : State, s.CanFetch → s.nextInstr.isNop = true →
    step s = .next { s with pc := s.pc + 2#16, outcome := .ok })

/-! ## The step -/

/-- When the bytes at `PC` decode to a well-formed instruction, the step is that instruction's meaning
at the state with `PC` advanced by 2 and the outcome `Ok`. -/
def Obligations.StepRunsDecodedInstruction : Prop :=
  ∀ (s : State) (i : Instr), s.CanFetch → i.wellFormed = true →
    decodeBytes [s.readByte s.pc.toNat, s.readByte (s.pc.toNat + 1)] = .ok (i, []) →
    step s = exec i { s with pc := s.pc + 2#16, outcome := .ok }

/-- R72: the fetch faults when the word is not inside memory, and is big-endian otherwise. -/
def Obligations.FetchBigEndianOrFaults : Prop :=
  ∀ s : State, s.faultMark = none →
    (0x1000 ≤ s.pc.toNat + 1 → step s = .fault (.fetchOutOfBounds s.pc)) ∧
    (s.pc.toNat + 1 < 0x1000 → ∀ w : Word,
      w.toNat = 256 * (s.readByte s.pc.toNat).toNat + (s.readByte (s.pc.toNat + 1)).toNat →
      step s = exec (decode w)
        { s with pc := BitVec.ofNat 16 ((s.pc.toNat + 2) % 65536), outcome := .ok })

/-- A word placed by `withFetchWord` is what the next step runs, high byte first, and nothing but its
two bytes of memory changes (the placing is the model's, logs 12 and 13). -/
def Obligations.FetchWordRunsNext : Prop :=
  ∀ (s : State) (w : Word), s.CanFetch → s.Inv →
    step (s.withFetchWord 16 w.toNat) = exec (decode w) (s.withFetchWord 16 w.toNat).beginStep ∧
    s.withFetchWord 16 w.toNat = { s with mem := (s.withFetchWord 16 w.toNat).mem } ∧
    s.SameMemoryOutside (s.withFetchWord 16 w.toNat) s.pc.toNat 2

/-- A step faults exactly when the first applicable condition of R317 holds, with the recorded values
of R314, and it is never refused. -/
def Obligations.StepFaultsExactlyAsListed : Prop :=
  ∀ s : State, s.faultMark = none →
    (∀ f, step s = .fault f ↔
      if 0x1000 ≤ s.pc.toNat + 1 then f = .fetchOutOfBounds s.pc
      else s.faultOf s.nextInstr = some f) ∧
    (∀ r, step s ≠ .refused r)

/-- A state whose fault mark is set has no further step, and no transaction clears or changes the
mark; a step that faults sets it. -/
def Obligations.FaultMarkIsSticky : Prop :=
  (∀ (s : State) (f : Fault) (tr : Transaction), s.faultMark = some f →
    step s = .fault f ∧ (s.apply tr).faultMark = some f) ∧
  (∀ (s : State) (f : Fault), step s = .fault f → (s.apply .step).faultMark = some f)

/-- R315: after a failing RET or CALL the state is the one before the step with `PC` at `a + 2`. -/
def Obligations.FailingStepChangesOnlyPc : Prop :=
  ∀ s t : State, step s = .next t → t.outcome ≠ .ok →
    t = { s with pc := s.pc + 2#16, outcome := t.outcome }

/-- The outcome of a step: which instruction returns which failure, and when; the codes of R311. -/
def Obligations.StepOutcomes : Prop :=
  (∀ s t : State, step s = .next t →
    (t.outcome = .emptyCallStack ↔ s.nextInstr = .ret ∧ s.sp.val = 0) ∧
    (t.outcome = .callStackOverflow ↔ (∃ nnn, s.nextInstr = .call nnn) ∧ s.sp.val = 16)) ∧
  StepOutcome.code .ok = 0 ∧ StepOutcome.code .emptyCallStack = 1 ∧
  StepOutcome.code .callStackOverflow = 2

/-- The outcome field is only returned, never read (R310; the field is the model's own, log 9). -/
def Obligations.OutcomeIsNeverRead : Prop :=
  ∀ (s : State) (o : StepOutcome), step { s with outcome := o } = step s

/-- R36: how each instruction leaves `PC`. -/
def Obligations.PcAfterEachInstruction : Prop :=
  ∀ s t : State, step s = .next t → t.pc = s.pcAfter s.nextInstr

/-! ## Which instructions write what -/

/-- A register that a step changes is one of those R34 lists for its instruction. -/
def Obligations.RegisterWriters : Prop :=
  ∀ (s t : State) (r : Nibble), step s = .next t → t.reg r ≠ s.reg r → r ∈ writesRegs s.nextInstr

/-- Only CALL and RET change the stack, only Annn, Fx1E and Fx29 change `I`, and no step changes the
fault mark or the parameters; the random stream moves only for RND. -/
def Obligations.EngineStateWriters : Prop :=
  ∀ s t : State, step s = .next t →
    (t.sp ≠ s.sp ∨ t.stack ≠ s.stack → s.nextInstr = .ret ∨ ∃ nnn, s.nextInstr = .call nnn) ∧
    (t.i ≠ s.i → (∃ nnn, s.nextInstr = .ldI nnn) ∨ (∃ x, s.nextInstr = .addI x) ∨
      ∃ x, s.nextInstr = .ldF x) ∧
    (t.rndIndex ≠ s.rndIndex → ∃ x kk, s.nextInstr = .rnd x kk) ∧
    t.faultMark = s.faultMark ∧ t.cfg = s.cfg

/-- Only CLS and DRW change a pixel, no step changes a key state, only LD Vx, K changes the latch or
the request flag, only Fx15 writes DT and only Fx18 writes ST. -/
def Obligations.DeviceStateWriters : Prop :=
  ∀ s t : State, step s = .next t →
    (t.fb ≠ s.fb → s.nextInstr = .cls ∨ ∃ x y n, s.nextInstr = .drw x y n) ∧
    t.key = s.key ∧
    (t.latch ≠ s.latch ∨ t.pending ≠ s.pending → ∃ x, s.nextInstr = .ldKey x) ∧
    (t.dt ≠ s.dt → ∃ x, s.nextInstr = .ldDt x) ∧
    (t.st ≠ s.st → ∃ x, s.nextInstr = .ldSt x)

/-- A byte of memory that a step changes lies in the block that R71 gives its instruction. -/
def Obligations.MemoryWriters : Prop :=
  ∀ (s t : State) (a : Nat), step s = .next t → t.readByte a ≠ s.readByte a →
    s.i.toNat ≤ a ∧ a < 0x1000 ∧
    ((∃ x, s.nextInstr = .ldB x ∧ a < s.i.toNat + 3) ∨
     (∃ x, s.nextInstr = .storeRegs x ∧ a ≤ s.i.toNat + x.toNat))

/-! ## Invariant -/

/-- Every step keeps memory in canonical form. -/
def Obligations.StepKeepsMemoryCanonical : Prop :=
  ∀ s t : State, s.Inv → step s = .next t → t.Inv

/-- Every host transaction that leaves the fault mark clear keeps it too. -/
def Obligations.TransactionsKeepMemoryCanonical : Prop :=
  ∀ (s : State) (tr : Transaction), s.Inv → (s.apply tr).faultMark = none → (s.apply tr).Inv

/-- The state after reset has it. -/
def Obligations.ResetMemoryCanonical : Prop := State.reset.Inv

/-! ## Control flow -/

/-- R141. -/
def Obligations.RetPopsOrFails : Prop :=
  decode 0x00EE#16 = .ret ∧ ∀ s : State,
    (s.sp.val = 0 → exec .ret s = .next { s with outcome := .emptyCallStack }) ∧
    (0 < s.sp.val → ∃ t, exec .ret s = .next t ∧
      t.sp.val = s.sp.val - 1 ∧ s.stack.toList[s.sp.val - 1]? = some t.pc ∧
      t = { s with sp := t.sp, pc := t.pc } ∧ s.SameMemory t)

/-- R150. -/
def Obligations.CallPushesOrFails : Prop :=
  ∀ (s : State) (nnn : Addr12),
    decode (formatA 0x2#4 nnn) = .call nnn ∧
    (s.sp.val = 16 → exec (.call nnn) s = .next { s with outcome := .callStackOverflow }) ∧
    (s.sp.val < 16 → ∃ t, exec (.call nnn) s = .next t ∧
      t.sp.val = s.sp.val + 1 ∧ t.pc.toNat = nnn.toNat ∧
      (∀ j, j < 16 → t.stack.toList[j]? =
        if j = s.sp.val then some s.pc else s.stack.toList[j]?) ∧
      t = { s with sp := t.sp, pc := t.pc, stack := t.stack } ∧ s.SameMemory t)

/-- A CALL whose target's first instruction is RET comes back after two steps to the word after the
CALL, with `SP` and the entries in use as they were (R152, its particular case). -/
def Obligations.CallThenRetBalances : Prop :=
  ∀ (s : State) (nnn : Addr12), s.CanFetch → s.sp.val < 16 → s.nextInstr = .call nnn →
    nnn.toNat + 1 < 0x1000 →
    decode (wordOfBytes (s.readByte nnn.toNat) (s.readByte (nnn.toNat + 1))) = .ret →
    ∃ u, Sys2Proof.core.run 2 s = .next u ∧
      u = { s with pc := s.pc + 2#16, outcome := .ok, stack := u.stack } ∧
      ∀ j, j < s.sp.val → u.stack.toList[j]? = s.stack.toList[j]?

/-- R145 and R160. -/
def Obligations.JumpTargets : Prop :=
  ∀ (s : State) (nnn : Addr12),
    decode (formatA 0x1#4 nnn) = .jp nnn ∧ decode (formatA 0xB#4 nnn) = .jpV0 nnn ∧
    (∃ t, exec (.jp nnn) s = .next t ∧ t.pc.toNat = nnn.toNat ∧ t = { s with pc := t.pc } ∧
      s.SameMemory t) ∧
    (∃ t, exec (.jpV0 nnn) s = .next t ∧ t.pc.toNat = nnn.toNat + (s.reg 0#4).toNat ∧
      t = { s with pc := t.pc } ∧ s.SameMemory t)

/-- R155 and R156. -/
def Obligations.SkipsOnImmediate : Prop :=
  ∀ (s : State) (x : Nibble) (kk : Byte),
    decode (formatXK 0x3#4 x kk) = .seImm x kk ∧ decode (formatXK 0x4#4 x kk) = .sneImm x kk ∧
    (∃ t, exec (.seImm x kk) s = .next t ∧ t = { s with pc := t.pc } ∧ s.SameMemory t ∧
      t.pc.toNat = if (s.reg x).toNat = kk.toNat then (s.pc.toNat + 2) % 65536 else s.pc.toNat) ∧
    (∃ t, exec (.sneImm x kk) s = .next t ∧ t = { s with pc := t.pc } ∧ s.SameMemory t ∧
      t.pc.toNat = if (s.reg x).toNat = kk.toNat then s.pc.toNat else (s.pc.toNat + 2) % 65536)

/-- R157 and R158. -/
def Obligations.SkipsOnRegisterPair : Prop :=
  ∀ (s : State) (x y : Nibble),
    decode (formatXYN 0x5#4 x y 0#4) = .seReg x y ∧
    decode (formatXYN 0x9#4 x y 0#4) = .sneReg x y ∧
    (∃ t, exec (.seReg x y) s = .next t ∧ t = { s with pc := t.pc } ∧ s.SameMemory t ∧
      t.pc.toNat =
        if (s.reg x).toNat = (s.reg y).toNat then (s.pc.toNat + 2) % 65536 else s.pc.toNat) ∧
    (∃ t, exec (.sneReg x y) s = .next t ∧ t = { s with pc := t.pc } ∧ s.SameMemory t ∧
      t.pc.toNat =
        if (s.reg x).toNat = (s.reg y).toNat then s.pc.toNat else (s.pc.toNat + 2) % 65536)

/-- R142, R159, R194, R282 and R295: each of the twelve no-op rows runs and changes nothing: `PC`
stays `a + 2`. -/
def Obligations.NoopsChangeNothing : Prop :=
  ∀ (s : State) (i : Instr), i.isNop = true → exec i s = .next s

/-! ## Arithmetic and logic -/

/-- R181 and R185. -/
def Obligations.LoadImmediateAndCopy : Prop :=
  ∀ (s : State) (x y : Nibble) (kk : Byte),
    decode (formatXK 0x6#4 x kk) = .ldImm x kk ∧ decode (formatXYN 0x8#4 x y 0#4) = .ldReg x y ∧
    (∃ t, exec (.ldImm x kk) s = .next t ∧ s.OnlyRegs t [x] ∧ t.reg x = kk) ∧
    (∃ t, exec (.ldReg x y) s = .next t ∧ s.OnlyRegs t [x] ∧ t.reg x = s.reg y)

/-- R182: the sum wraps and VF is written only as an ordinary destination. -/
def Obligations.AddImmediateWraps : Prop :=
  ∀ (s : State) (x : Nibble) (kk : Byte), decode (formatXK 0x7#4 x kk) = .addImm x kk ∧
    ∃ t, exec (.addImm x kk) s = .next t ∧
    s.OnlyRegs t [x] ∧ (t.reg x).toNat = ((s.reg x).toNat + kk.toNat) % 256

/-- R186, R187 and R188, bit by bit; VF is written only as an ordinary destination. -/
def Obligations.BitwiseOperations : Prop :=
  ∀ (s : State) (x y : Nibble),
    decode (formatXYN 0x8#4 x y 1#4) = .orReg x y ∧
    decode (formatXYN 0x8#4 x y 2#4) = .andReg x y ∧
    decode (formatXYN 0x8#4 x y 3#4) = .xorReg x y ∧
    (∃ t, exec (.orReg x y) s = .next t ∧ s.OnlyRegs t [x] ∧
      ∀ k, (t.reg x).getLsbD k = ((s.reg x).getLsbD k || (s.reg y).getLsbD k)) ∧
    (∃ t, exec (.andReg x y) s = .next t ∧ s.OnlyRegs t [x] ∧
      ∀ k, (t.reg x).getLsbD k = ((s.reg x).getLsbD k && (s.reg y).getLsbD k)) ∧
    (∃ t, exec (.xorReg x y) s = .next t ∧ s.OnlyRegs t [x] ∧
      ∀ k, (t.reg x).getLsbD k = ((s.reg x).getLsbD k ^^ (s.reg y).getLsbD k))

/-- R189, with R180 for `x = 0xF`. -/
def Obligations.AddSetsCarry : Prop :=
  ∀ (s : State) (x y : Nibble), decode (formatXYN 0x8#4 x y 4#4) = .addReg x y ∧
    ∃ t, exec (.addReg x y) s = .next t ∧
    s.ResultAndFlag t x (((s.reg x).toNat + (s.reg y).toNat) % 256)
      (if 255 < (s.reg x).toNat + (s.reg y).toNat then 1 else 0)

/-- R190 and R192, with R180 for `x = 0xF`: the wrapped difference and NOT-borrow. -/
def Obligations.SubtractionsSetNotBorrow : Prop :=
  ∀ (s : State) (x y : Nibble),
    decode (formatXYN 0x8#4 x y 5#4) = .subReg x y ∧
    decode (formatXYN 0x8#4 x y 7#4) = .subnReg x y ∧
    (∃ t, exec (.subReg x y) s = .next t ∧
      s.ResultAndFlag t x (((s.reg x).toNat + 256 - (s.reg y).toNat) % 256)
        (if (s.reg x).toNat < (s.reg y).toNat then 0 else 1)) ∧
    (∃ t, exec (.subnReg x y) s = .next t ∧
      s.ResultAndFlag t x (((s.reg y).toNat + 256 - (s.reg x).toNat) % 256)
        (if (s.reg y).toNat < (s.reg x).toNat then 0 else 1))

/-- R191 and R193, with R180 for `x = 0xF`: one place, the bit shifted out in VF, whatever `y` is. -/
def Obligations.ShiftsSetShiftedOutBit : Prop :=
  ∀ (s : State) (x y : Nibble),
    decode (formatXYN 0x8#4 x y 6#4) = .shr x y ∧
    decode (formatXYN 0x8#4 x y 0xE#4) = .shl x y ∧
    (∃ t, exec (.shr x y) s = .next t ∧
      s.ResultAndFlag t x ((s.reg x).toNat / 2) ((s.reg x).toNat % 2)) ∧
    (∃ t, exec (.shl x y) s = .next t ∧
      s.ResultAndFlag t x ((s.reg x).toNat * 2 % 256) ((s.reg x).toNat / 128))

/-- R200: some byte, masked; a bit where `kk` is 0 is 0. Nothing else changes but the model's index
into the random stream (log 8). -/
def Obligations.RandomByteIsMasked : Prop :=
  ∀ (s : State) (x : Nibble) (kk : Byte), decode (formatXK 0xC#4 x kk) = .rnd x kk ∧
    ∃ t, exec (.rnd x kk) s = .next t ∧
    (∀ k, (t.reg x).getLsbD k = ((Config.rnd s.rndIndex).getLsbD k && kk.getLsbD k)) ∧
    t = { s with v := t.v, rndIndex := s.rndIndex + 1 } ∧ s.SameRegsBut t [x] ∧ s.SameMemory t

/-! ## Index register and memory -/

/-- R230, R231 and R232. -/
def Obligations.IndexRegisterForms : Prop :=
  ∀ (s : State) (x : Nibble) (nnn : Addr12),
    decode (formatA 0xA#4 nnn) = .ldI nnn ∧ decode (formatXK 0xF#4 x 0x1E#8) = .addI x ∧
    decode (formatXK 0xF#4 x 0x29#8) = .ldF x ∧
    (∃ t, exec (.ldI nnn) s = .next t ∧ t.i.toNat = nnn.toNat ∧ t = { s with i := t.i } ∧
      s.SameMemory t) ∧
    (∃ t, exec (.addI x) s = .next t ∧ t.i.toNat = (s.i.toNat + (s.reg x).toNat) % 65536 ∧
      t = { s with i := t.i } ∧ s.SameMemory t) ∧
    (∃ t, exec (.ldF x) s = .next t ∧ t.i.toNat = 5 * ((s.reg x).toNat % 16) ∧
      t = { s with i := t.i } ∧ s.SameMemory t)

/-- R235, both values of `BCD_MODE`, and where it faults. -/
def Obligations.BcdStoresDigits : Prop :=
  ∀ (s : State) (x : Nibble), s.Inv →
    decode (formatXK 0xF#4 x 0x33#8) = .ldB x ∧
    (s.i.toNat + 2 < 0x1000 → ∃ t, exec (.ldB x) s = .next t ∧
      (t.readByte s.i.toNat).toNat = (s.reg x).toNat / 100 ∧
      (s.cfg.bcdMode = .observed → (t.readByte (s.i.toNat + 1)).toNat = 0) ∧
      (s.cfg.bcdMode = .decimal →
        (t.readByte (s.i.toNat + 1)).toNat = (s.reg x).toNat / 10 % 10) ∧
      (t.readByte (s.i.toNat + 2)).toNat = (s.reg x).toNat % 10 ∧
      t = { s with mem := t.mem } ∧ s.SameMemoryOutside t s.i.toNat 3) ∧
    (0x1000 ≤ s.i.toNat + 2 → exec (.ldB x) s =
      .fault (.memoryOutOfBounds (s.pc - 2#16) (max s.i.toNat 0x1000)))

/-- R240: V0 to Vx are stored, `I` is unchanged, and where it faults. -/
def Obligations.StoreRegistersBlock : Prop :=
  ∀ (s : State) (x : Nibble), s.Inv →
    decode (formatXK 0xF#4 x 0x55#8) = .storeRegs x ∧
    (s.i.toNat + x.toNat < 0x1000 → ∃ t, exec (.storeRegs x) s = .next t ∧
      (∀ r : Nibble, r.toNat ≤ x.toNat → t.readByte (s.i.toNat + r.toNat) = s.reg r) ∧
      t = { s with mem := t.mem } ∧ s.SameMemoryOutside t s.i.toNat (x.toNat + 1)) ∧
    (0x1000 ≤ s.i.toNat + x.toNat → exec (.storeRegs x) s =
      .fault (.memoryOutOfBounds (s.pc - 2#16) (max s.i.toNat 0x1000)))

/-- R241: V0 to Vx are loaded, registers above x and `I` are unchanged, and where it faults. -/
def Obligations.LoadRegistersBlock : Prop :=
  ∀ (s : State) (x : Nibble),
    decode (formatXK 0xF#4 x 0x65#8) = .loadRegs x ∧
    (s.i.toNat + x.toNat < 0x1000 → ∃ t, exec (.loadRegs x) s = .next t ∧
      (∀ r : Nibble, t.reg r =
        if r.toNat ≤ x.toNat then s.readByte (s.i.toNat + r.toNat) else s.reg r) ∧
      t = { s with v := t.v } ∧ s.SameMemory t) ∧
    (0x1000 ≤ s.i.toNat + x.toNat → exec (.loadRegs x) s =
      .fault (.memoryOutOfBounds (s.pc - 2#16) (max s.i.toNat 0x1000)))

/-- A word stored by LD [I], Vx right behind the instruction is the one the next step runs (R83). -/
def Obligations.StoreIsSeenByNextFetch : Prop :=
  ∀ (s : State) (x : Nibble), s.CanFetch → s.Inv → s.nextInstr = .storeRegs x → 1 ≤ x.toNat →
    s.i.toNat = s.pc.toNat + 2 → s.i.toNat + x.toNat < 0x1000 →
    ∃ t, step s = .next t ∧ t.nextInstr = decode (wordOfBytes (s.reg 0#4) (s.reg 1#4)) ∧
      step t = exec (decode (wordOfBytes (s.reg 0#4) (s.reg 1#4))) t.beginStep

/-! ## Display -/

/-- R260. -/
def Obligations.ClsClearsEveryPixel : Prop :=
  decode 0x00E0#16 = .cls ∧ ∀ s : State, ∃ t, exec .cls s = .next t ∧ (∀ px py, t.fbRead px py = false) ∧
    t = { s with fb := t.fb } ∧ s.SameMemory t

/-- R262: the sprite is XORed in with wrapped coordinates, VF is the collision, nothing else changes;
and where it faults. -/
def Obligations.DrawXorsSprite : Prop :=
  ∀ (s : State) (x y n : Nibble),
    decode (formatXYN 0xD#4 x y n) = .drw x y n ∧
    (n = 0#4 ∨ s.i.toNat + n.toNat ≤ 0x1000 → ∃ t, exec (.drw x y n) s = .next t ∧
      (∀ row col, row < n.toNat → col < 8 →
        t.fb.pixel ((s.reg x).toNat + col) ((s.reg y).toNat + row) =
          (s.fb.pixel ((s.reg x).toNat + col) ((s.reg y).toNat + row) ^^
            (s.readByte (s.i.toNat + row)).getLsbD (7 - col))) ∧
      (∀ px py, (∀ row col, row < n.toNat → col < 8 →
          ¬ (((s.reg x).toNat + col) % 64 = px % 64 ∧ ((s.reg y).toNat + row) % 32 = py % 32)) →
        t.fb.pixel px py = s.fb.pixel px py) ∧
      ((t.reg vf = 1#8 ∧ ∃ row col, row < n.toNat ∧ col < 8 ∧
          s.fb.pixel ((s.reg x).toNat + col) ((s.reg y).toNat + row) = true ∧
          (s.readByte (s.i.toNat + row)).getLsbD (7 - col) = true) ∨
       (t.reg vf = 0#8 ∧ ∀ row col, row < n.toNat → col < 8 →
          s.fb.pixel ((s.reg x).toNat + col) ((s.reg y).toNat + row) = true →
          (s.readByte (s.i.toNat + row)).getLsbD (7 - col) = false)) ∧
      t = { s with fb := t.fb, v := t.v } ∧ s.SameRegsBut t [vf] ∧ s.SameMemory t) ∧
    (n ≠ 0#4 → 0x1000 < s.i.toNat + n.toNat → exec (.drw x y n) s =
      .fault (.memoryOutOfBounds (s.pc - 2#16) (max s.i.toNat 0x1000)))

/-- Drawing the same sprite twice at the same coordinates restores the framebuffer (R265, its first
law). -/
def Obligations.DrawTwiceRestoresFramebuffer : Prop :=
  ∀ (s t : State) (x y n : Nibble), exec (.drw x y n) s = .next t →
    t.reg x = s.reg x → t.reg y = s.reg y →
    ∃ u, exec (.drw x y n) t = .next u ∧ u.fb = s.fb

/-- Over a region whose pixels are all off, a draw gives VF 0, and the same draw again gives VF 1
exactly when the sprite has a 1 bit (R265, its second and third laws, for such a region: log 21). -/
def Obligations.DrawCollisionOverClearRegion : Prop :=
  ∀ (s t : State) (x y n : Nibble), exec (.drw x y n) s = .next t →
    (∀ row col, row < n.toNat → col < 8 →
      s.fb.pixel ((s.reg x).toNat + col) ((s.reg y).toNat + row) = false) →
    t.reg vf = 0#8 ∧
    (t.reg x = s.reg x → t.reg y = s.reg y → ∃ u, exec (.drw x y n) t = .next u ∧
      (u.reg vf = 1#8 ↔ ∃ row col, row < n.toNat ∧ col < 8 ∧
        (s.readByte (s.i.toNat + row)).getLsbD (7 - col) = true))

/-! ## Input and timers -/

/-- R280 and R281: the skip on a key's state, and the fault on an index of 16 or more. -/
def Obligations.KeySkips : Prop :=
  ∀ (s : State) (x k : Nibble),
    decode (formatXK 0xE#4 x 0x9E#8) = .skp x ∧ decode (formatXK 0xE#4 x 0xA1#8) = .sknp x ∧
    ((s.reg x).toNat = k.toNat →
      (∃ t, exec (.skp x) s = .next t ∧ t = { s with pc := t.pc } ∧ s.SameMemory t ∧
        t.pc.toNat = if s.isPressed k then (s.pc.toNat + 2) % 65536 else s.pc.toNat) ∧
      (∃ t, exec (.sknp x) s = .next t ∧ t = { s with pc := t.pc } ∧ s.SameMemory t ∧
        t.pc.toNat = if s.isPressed k then s.pc.toNat else (s.pc.toNat + 2) % 65536)) ∧
    (16 ≤ (s.reg x).toNat →
      exec (.skp x) s = .fault (.keyIndexOutOfRange (s.pc - 2#16) (s.reg x)) ∧
      exec (.sknp x) s = .fault (.keyIndexOutOfRange (s.pc - 2#16) (s.reg x)))

/-- R285 and R344: a pending request with a latched key delivers it; otherwise `PC` goes back by 2,
and a request is pending. -/
def Obligations.KeyReadProtocol : Prop :=
  ∀ (s : State) (x : Nibble),
    decode (formatXK 0xF#4 x 0x0A#8) = .ldKey x ∧
    (∀ k, s.pending = true → s.latch = some k → ∃ t, exec (.ldKey x) s = .next t ∧
      (t.reg x).toNat = k.toNat ∧
      t = { s with v := t.v, latch := none, pending := false } ∧ s.SameRegsBut t [x] ∧
      s.SameMemory t) ∧
    (s.pending = false ∨ s.latch = none → exec (.ldKey x) s =
      .next { s with pending := true, pc := BitVec.ofNat 16 ((s.pc.toNat + 65534) % 65536) })

/-- With a key already latched and no request pending, LD Vx, K delivers at its second execution and
not at its first (R50, R383). -/
def Obligations.LatchedKeyNeedsTwoSteps : Prop :=
  ∀ (s : State) (x k : Nibble), s.CanFetch → s.nextInstr = .ldKey x → s.pending = false →
    s.latch = some k →
    step s = .next { s with pending := true, outcome := .ok } ∧
    ∃ u, Sys2Proof.core.run 2 s = .next u ∧ (u.reg x).toNat = k.toNat ∧ s.SameRegsBut u [x] ∧
      u = { s with v := u.v, pc := s.pc + 2#16, latch := none, outcome := .ok }

/-- R290, R291 and R292. -/
def Obligations.TimerTransfers : Prop :=
  ∀ (s : State) (x : Nibble),
    decode (formatXK 0xF#4 x 0x07#8) = .ldFromDt x ∧ decode (formatXK 0xF#4 x 0x15#8) = .ldDt x ∧
    decode (formatXK 0xF#4 x 0x18#8) = .ldSt x ∧
    (∃ t, exec (.ldFromDt x) s = .next t ∧ s.OnlyRegs t [x] ∧ t.reg x = s.dt) ∧
    (∃ t, exec (.ldDt x) s = .next t ∧ t.dt = s.reg x ∧ t = { s with dt := t.dt } ∧
      s.SameMemory t) ∧
    (∃ t, exec (.ldSt x) s = .next t ∧ t.st = s.reg x ∧ t = { s with st := t.st } ∧
      s.SameMemory t ∧ (t.soundActive = true ↔ (s.reg x).toNat ≠ 0))

/-! ## Ports and the host -/

/-- R342. -/
def Obligations.SetKeyRecordsAndLatches : Prop :=
  ∀ (s : State) (k : Nibble) (pressed : Bool),
    (∀ j, (s.setKeyPort k pressed).isPressed j = if j = k then pressed else s.isPressed j) ∧
    (pressed = true → s.latch = none → (s.setKeyPort k pressed).latch = some k) ∧
    (pressed = false ∨ s.latch ≠ none → (s.setKeyPort k pressed).latch = s.latch) ∧
    s.setKeyPort k pressed =
      { s with key := (s.setKeyPort k pressed).key, latch := (s.setKeyPort k pressed).latch }

/-- R63 and R346: a tick takes 1 from each timer that is above 0, and changes nothing else. -/
def Obligations.TickCountsDown : Prop :=
  ∀ s : State, s.tickPort.dt.toNat = s.dt.toNat - 1 ∧ s.tickPort.st.toNat = s.st.toNat - 1 ∧
    s.tickPort = { s with dt := s.tickPort.dt, st := s.tickPort.st }

/-- R370: the writes of `reset()`, and nothing else. -/
def Obligations.ResetWritesListedStateOnly : Prop :=
  ∀ s : State, s.Inv →
    s.resetPort.sp.val = 0 ∧ s.resetPort.i = 0x0000#16 ∧ s.resetPort.pc = 0x0200#16 ∧
    (∀ j, j < 16 → s.resetPort.stack.toList[j]? = some 0x0000#16) ∧
    (∀ g b (hg : g < 16) (hb : b < 5), s.resetPort.readByte (5 * g + b) = s.cfg.font[g][b]) ∧
    s.SameMemoryOutside s.resetPort 0 80 ∧
    s.resetPort = { s with
      sp := s.resetPort.sp, i := s.resetPort.i, pc := s.resetPort.pc, stack := s.resetPort.stack,
      mem := s.resetPort.mem }

/-- R372 and R373: a program of up to 3584 bytes is stored from 0x200 on; a longer one changes
nothing. -/
def Obligations.LoadStoresProgram : Prop :=
  ∀ (s : State) (bytes : List Byte), s.Inv →
    (bytes.length ≤ 3584 → ∃ t, s.loadPort bytes = (.ok, t) ∧
      (∀ (j : Nat) (h : j < bytes.length), t.readByte (0x200 + j) = bytes[j]) ∧
      s.SameMemoryOutside t 0x200 bytes.length ∧ t = { s with mem := t.mem }) ∧
    (3585 ≤ bytes.length → s.loadPort bytes = (.programTooLarge, s) ∧ boot s bytes = none)

/-- Construction, reset and load leave the launch state: the values the spec gives, and every launch
input as it was constructed (R55). -/
def Obligations.BootGivesLaunchState : Prop :=
  ∀ (inputs : State) (rom : List Byte), inputs.Inv → rom.length ≤ 3584 →
    ∃ t, boot inputs rom = some t ∧ t.pc = 0x0200#16 ∧ t.i = 0x0000#16 ∧ t.sp.val = 0 ∧
      t.stack = Vector.replicate 16 0x0000#16 ∧ t.faultMark = none ∧
      (∀ g b (hg : g < 16) (hb : b < 5), t.readByte (5 * g + b) = inputs.cfg.font[g][b]) ∧
      (∀ (j : Nat) (h : j < rom.length), t.readByte (0x200 + j) = rom[j]) ∧
      (∀ a, 80 ≤ a ∧ a < 0x200 ∨ 0x200 + rom.length ≤ a → t.readByte a = inputs.readByte a) ∧
      t.v = inputs.v ∧ t.fb = inputs.fb ∧ t.key = inputs.key ∧ t.latch = inputs.latch ∧
      t.pending = inputs.pending ∧ t.dt = inputs.dt ∧ t.st = inputs.st ∧ t.cfg = inputs.cfg

/-- The state after reset: the values R55 gives, and the clean-launch premise of 92 D11 for the launch
inputs, which is the model's choice (logs 1 to 4). -/
def Obligations.ResetStateValues : Prop :=
  State.reset.pc = 0x0200#16 ∧ State.reset.i = 0x0000#16 ∧ State.reset.sp.val = 0 ∧
  State.reset.stack = Vector.replicate 16 0x0000#16 ∧ State.reset.faultMark = none ∧
  State.reset.cleanLaunch = true ∧ State.reset.resetPort = State.reset

/-- R350: a frame applies its events in order, ticks once and takes `ipf` steps. When no step
faulted, their outcomes are logged in order and every pixel is rendered as `fb_read` gives it; a fault
ends the log at the steps before it and nothing is rendered; a marked state has no frame. -/
def Obligations.FrameRunsIpfSteps : Prop :=
  ∀ (s : State) (ipf : Nat) (events : List KeyEvent),
    let start := (events.foldl (fun u e => u.setKeyPort e.1 e.2) s).tickPort
    let after := fun k => State.stepPort^[k] start
    let logged := fun k => (List.range k).map fun j => (after (j + 1)).outcome
    (∀ f, s.faultMark = some f → s.frame ipf events = ({ outcomes := [], grid := none }, s)) ∧
    (s.faultMark = none →
      (s.frame ipf events).2 = after ipf ∧
      ((after ipf).faultMark = none →
        (s.frame ipf events).1.outcomes = logged ipf ∧
        ∃ grid, (s.frame ipf events).1.grid = some grid ∧
          ∀ (px : Fin 64) (py : Fin 32), grid[px][py] = (after ipf).fbRead px py) ∧
      (∀ f, (after ipf).faultMark = some f →
        (s.frame ipf events).1.grid = none ∧
        ∃ k, k < ipf ∧ (after k).faultMark = none ∧ (after (k + 1)).faultMark = some f ∧
          (s.frame ipf events).1.outcomes = logged k))

/-- The loop of R350: frames run one after another, each from the state the one before left; while no
fault ends it, there is one report for each frame. -/
def Obligations.FramesRunInOrder : Prop :=
  ∀ (s : State) (ipf : Nat) (eventLists : List (List KeyEvent)),
    let reached := fun k =>
      (eventLists.take k).foldl (fun u events => (u.frame ipf events).2) s
    (s.frames ipf eventLists).2 = reached eventLists.length ∧
    ((s.frames ipf eventLists).2.faultMark = none →
      (s.frames ipf eventLists).1.length = eventLists.length ∧
      ∀ k events, eventLists[k]? = some events →
        (s.frames ipf eventLists).1[k]? = some ((reached k).frame ipf events).1)

/-- No transaction changes the parameters of R9, a step that faults included: that a fault leaves them
is the model's choice (log 22). -/
def Obligations.ParametersNeverChange : Prop :=
  ∀ (s : State) (tr : Transaction), (s.apply tr).cfg = s.cfg

/-- When the same sprite is drawn twice at the same coordinates, the second draw's VF is 1 exactly when
a 1 bit of the sprite fell on a pixel that was off before the first (R262 and R331; this is what
R265's second law comes to over any framebuffer, log 21), and 0 otherwise. -/
def Obligations.SecondDrawCollidesWhereFirstLit : Prop :=
  ∀ (s t : State) (x y n : Nibble), exec (.drw x y n) s = .next t →
    t.reg x = s.reg x → t.reg y = s.reg y → ∃ u, exec (.drw x y n) t = .next u ∧
      (u.reg vf = 0#8 ∨ u.reg vf = 1#8) ∧
      (u.reg vf = 1#8 ↔ ∃ row col, row < n.toNat ∧ col < 8 ∧
        s.fb.pixel ((s.reg x).toNat + col) ((s.reg y).toNat + row) = false ∧
        (s.readByte (s.i.toNat + row)).getLsbD (7 - col) = true)

/-- R44: no transaction but set_key changes a key state, a step that faults included. -/
def Obligations.KeyStatesChangeOnlyBySetKey : Prop :=
  ∀ (s : State) (tr : Transaction), (∀ k pressed, tr ≠ .setKey k pressed) →
    ∀ k, (s.apply tr).isPressed k = s.isPressed k
end

