-- ==== Sys2Proof/Laws/Decode.lean ====
section
/-! SUPPORT. The fields of a word as numbers, the word of an operand format as a number, and each
field of each format. With these, a question about decode and encode is linear arithmetic. -/

namespace Sys2Proof

/-! ## Fields as numbers (R101) -/

theorem toNat_classOf (w : Word) : (classOf w).toNat = w.toNat / 4096 := by
  have := w.isLt
  simp only [classOf, BitVec.extractLsb'_toNat, Nat.shiftRight_eq_div_pow]; omega

theorem toNat_xOf (w : Word) : (xOf w).toNat = w.toNat / 256 % 16 := by
  simp only [xOf, BitVec.extractLsb'_toNat, Nat.shiftRight_eq_div_pow]

theorem toNat_yOf (w : Word) : (yOf w).toNat = w.toNat / 16 % 16 := by
  simp only [yOf, BitVec.extractLsb'_toNat, Nat.shiftRight_eq_div_pow]

theorem toNat_nOf (w : Word) : (nOf w).toNat = w.toNat % 16 := by
  simp only [nOf, BitVec.extractLsb'_toNat, Nat.shiftRight_eq_div_pow]; omega

theorem toNat_kkOf (w : Word) : (kkOf w).toNat = w.toNat % 256 := by
  simp only [kkOf, BitVec.extractLsb'_toNat, Nat.shiftRight_eq_div_pow]; omega

theorem toNat_nnnOf (w : Word) : (nnnOf w).toNat = w.toNat % 4096 := by
  simp only [nnnOf, BitVec.extractLsb'_toNat, Nat.shiftRight_eq_div_pow]; omega

/-! ## Words as numbers (R72, R102) -/

theorem toNat_append {m n : Nat} (a : BitVec m) (b : BitVec n) :
    (a ++ b).toNat = a.toNat * 2 ^ n + b.toNat := by
  rw [BitVec.toNat_append, ← Nat.shiftLeft_add_eq_or_of_lt b.isLt, Nat.shiftLeft_eq]

theorem toNat_wordOfBytes (hi lo : Byte) : (wordOfBytes hi lo).toNat = hi.toNat * 256 + lo.toNat :=
  toNat_append hi lo

theorem toNat_formatA (c : Nibble) (a : Addr12) :
    (formatA c a).toNat = c.toNat * 4096 + a.toNat := toNat_append c a

theorem toNat_formatXK (c x : Nibble) (kk : Byte) :
    (formatXK c x kk).toNat = c.toNat * 4096 + x.toNat * 256 + kk.toNat := by
  refine (toNat_append (c ++ x) kk).trans ?_
  rw [toNat_append]; omega

theorem toNat_formatXYN (c x y n : Nibble) :
    (formatXYN c x y n).toNat = c.toNat * 4096 + x.toNat * 256 + y.toNat * 16 + n.toNat := by
  refine (toNat_append (c ++ x ++ y) n).trans ?_
  rw [toNat_append, toNat_append]; omega

/-! ## The fields of each format -/

@[simp] theorem classOf_formatA (c : Nibble) (a : Addr12) : classOf (formatA c a) = c := by
  apply BitVec.eq_of_toNat_eq; have := a.isLt; rw [toNat_classOf, toNat_formatA]; omega

@[simp] theorem nnnOf_formatA (c : Nibble) (a : Addr12) : nnnOf (formatA c a) = a := by
  apply BitVec.eq_of_toNat_eq; have := a.isLt; rw [toNat_nnnOf, toNat_formatA]; omega

@[simp] theorem classOf_formatXK (c x : Nibble) (kk : Byte) : classOf (formatXK c x kk) = c := by
  apply BitVec.eq_of_toNat_eq; have := x.isLt; have := kk.isLt
  rw [toNat_classOf, toNat_formatXK]; omega

@[simp] theorem xOf_formatXK (c x : Nibble) (kk : Byte) : xOf (formatXK c x kk) = x := by
  apply BitVec.eq_of_toNat_eq; have := x.isLt; have := kk.isLt
  rw [toNat_xOf, toNat_formatXK]; omega

@[simp] theorem kkOf_formatXK (c x : Nibble) (kk : Byte) : kkOf (formatXK c x kk) = kk := by
  apply BitVec.eq_of_toNat_eq; have := kk.isLt
  rw [toNat_kkOf, toNat_formatXK]; omega

@[simp] theorem classOf_formatXYN (c x y n : Nibble) : classOf (formatXYN c x y n) = c := by
  apply BitVec.eq_of_toNat_eq; have := x.isLt; have := y.isLt; have := n.isLt
  rw [toNat_classOf, toNat_formatXYN]; omega

@[simp] theorem xOf_formatXYN (c x y n : Nibble) : xOf (formatXYN c x y n) = x := by
  apply BitVec.eq_of_toNat_eq; have := x.isLt; have := y.isLt; have := n.isLt
  rw [toNat_xOf, toNat_formatXYN]; omega

@[simp] theorem yOf_formatXYN (c x y n : Nibble) : yOf (formatXYN c x y n) = y := by
  apply BitVec.eq_of_toNat_eq; have := y.isLt; have := n.isLt
  rw [toNat_yOf, toNat_formatXYN]; omega

@[simp] theorem nOf_formatXYN (c x y n : Nibble) : nOf (formatXYN c x y n) = n := by
  apply BitVec.eq_of_toNat_eq; have := n.isLt
  rw [toNat_nOf, toNat_formatXYN]; omega

/-! ## A word from its fields -/

theorem formatA_fields (w : Word) : formatA (classOf w) (nnnOf w) = w := by
  apply BitVec.eq_of_toNat_eq
  rw [toNat_formatA, toNat_classOf, toNat_nnnOf]; omega

theorem formatXK_fields (w : Word) : formatXK (classOf w) (xOf w) (kkOf w) = w := by
  apply BitVec.eq_of_toNat_eq
  rw [toNat_formatXK, toNat_classOf, toNat_xOf, toNat_kkOf]; omega

theorem formatXYN_fields (w : Word) : formatXYN (classOf w) (xOf w) (yOf w) (nOf w) = w := by
  apply BitVec.eq_of_toNat_eq
  rw [toNat_formatXYN, toNat_classOf, toNat_xOf, toNat_yOf, toNat_nOf]; omega

end Sys2Proof
end

