-- ==== Sys2Proof/Laws/State.lean ====
section
/-! SUPPORT. One lemma per field of State per named update: what the update leaves and what it writes. -/

namespace Sys2Proof.Machine

variable (s : State)

/-! ## setReg -/

@[simp] theorem State.setReg_v (x : Nibble) (b : Byte) : (s.setReg x b).v = s.v.set x.toNat b x.isLt := rfl
@[simp] theorem State.setReg_i (x : Nibble) (b : Byte) : (s.setReg x b).i = s.i := rfl
@[simp] theorem State.setReg_pc (x : Nibble) (b : Byte) : (s.setReg x b).pc = s.pc := rfl
@[simp] theorem State.setReg_sp (x : Nibble) (b : Byte) : (s.setReg x b).sp = s.sp := rfl
@[simp] theorem State.setReg_stack (x : Nibble) (b : Byte) : (s.setReg x b).stack = s.stack := rfl
@[simp] theorem State.setReg_mem (x : Nibble) (b : Byte) : (s.setReg x b).mem = s.mem := rfl
@[simp] theorem State.setReg_fb (x : Nibble) (b : Byte) : (s.setReg x b).fb = s.fb := rfl
@[simp] theorem State.setReg_key (x : Nibble) (b : Byte) : (s.setReg x b).key = s.key := rfl
@[simp] theorem State.setReg_latch (x : Nibble) (b : Byte) : (s.setReg x b).latch = s.latch := rfl
@[simp] theorem State.setReg_pending (x : Nibble) (b : Byte) : (s.setReg x b).pending = s.pending := rfl
@[simp] theorem State.setReg_dt (x : Nibble) (b : Byte) : (s.setReg x b).dt = s.dt := rfl
@[simp] theorem State.setReg_st (x : Nibble) (b : Byte) : (s.setReg x b).st = s.st := rfl
@[simp] theorem State.setReg_faultMark (x : Nibble) (b : Byte) : (s.setReg x b).faultMark = s.faultMark := rfl
@[simp] theorem State.setReg_outcome (x : Nibble) (b : Byte) : (s.setReg x b).outcome = s.outcome := rfl
@[simp] theorem State.setReg_rndIndex (x : Nibble) (b : Byte) : (s.setReg x b).rndIndex = s.rndIndex := rfl
@[simp] theorem State.setReg_cfg (x : Nibble) (b : Byte) : (s.setReg x b).cfg = s.cfg := rfl

/-! ## skip -/

@[simp] theorem State.skip_v : s.skip.v = s.v := rfl
@[simp] theorem State.skip_i : s.skip.i = s.i := rfl
@[simp] theorem State.skip_pc : s.skip.pc = s.pc + 2#16 := rfl
@[simp] theorem State.skip_sp : s.skip.sp = s.sp := rfl
@[simp] theorem State.skip_stack : s.skip.stack = s.stack := rfl
@[simp] theorem State.skip_mem : s.skip.mem = s.mem := rfl
@[simp] theorem State.skip_fb : s.skip.fb = s.fb := rfl
@[simp] theorem State.skip_key : s.skip.key = s.key := rfl
@[simp] theorem State.skip_latch : s.skip.latch = s.latch := rfl
@[simp] theorem State.skip_pending : s.skip.pending = s.pending := rfl
@[simp] theorem State.skip_dt : s.skip.dt = s.dt := rfl
@[simp] theorem State.skip_st : s.skip.st = s.st := rfl
@[simp] theorem State.skip_faultMark : s.skip.faultMark = s.faultMark := rfl
@[simp] theorem State.skip_outcome : s.skip.outcome = s.outcome := rfl
@[simp] theorem State.skip_rndIndex : s.skip.rndIndex = s.rndIndex := rfl
@[simp] theorem State.skip_cfg : s.skip.cfg = s.cfg := rfl

/-! ## rewind -/

@[simp] theorem State.rewind_v : s.rewind.v = s.v := rfl
@[simp] theorem State.rewind_i : s.rewind.i = s.i := rfl
@[simp] theorem State.rewind_pc : s.rewind.pc = s.pc - 2#16 := rfl
@[simp] theorem State.rewind_sp : s.rewind.sp = s.sp := rfl
@[simp] theorem State.rewind_stack : s.rewind.stack = s.stack := rfl
@[simp] theorem State.rewind_mem : s.rewind.mem = s.mem := rfl
@[simp] theorem State.rewind_fb : s.rewind.fb = s.fb := rfl
@[simp] theorem State.rewind_key : s.rewind.key = s.key := rfl
@[simp] theorem State.rewind_latch : s.rewind.latch = s.latch := rfl
@[simp] theorem State.rewind_pending : s.rewind.pending = s.pending := rfl
@[simp] theorem State.rewind_dt : s.rewind.dt = s.dt := rfl
@[simp] theorem State.rewind_st : s.rewind.st = s.st := rfl
@[simp] theorem State.rewind_faultMark : s.rewind.faultMark = s.faultMark := rfl
@[simp] theorem State.rewind_outcome : s.rewind.outcome = s.outcome := rfl
@[simp] theorem State.rewind_rndIndex : s.rewind.rndIndex = s.rndIndex := rfl
@[simp] theorem State.rewind_cfg : s.rewind.cfg = s.cfg := rfl

/-! ## jump -/

@[simp] theorem State.jump_v (t : Word) : (s.jump t).v = s.v := rfl
@[simp] theorem State.jump_i (t : Word) : (s.jump t).i = s.i := rfl
@[simp] theorem State.jump_pc (t : Word) : (s.jump t).pc = t := rfl
@[simp] theorem State.jump_sp (t : Word) : (s.jump t).sp = s.sp := rfl
@[simp] theorem State.jump_stack (t : Word) : (s.jump t).stack = s.stack := rfl
@[simp] theorem State.jump_mem (t : Word) : (s.jump t).mem = s.mem := rfl
@[simp] theorem State.jump_fb (t : Word) : (s.jump t).fb = s.fb := rfl
@[simp] theorem State.jump_key (t : Word) : (s.jump t).key = s.key := rfl
@[simp] theorem State.jump_latch (t : Word) : (s.jump t).latch = s.latch := rfl
@[simp] theorem State.jump_pending (t : Word) : (s.jump t).pending = s.pending := rfl
@[simp] theorem State.jump_dt (t : Word) : (s.jump t).dt = s.dt := rfl
@[simp] theorem State.jump_st (t : Word) : (s.jump t).st = s.st := rfl
@[simp] theorem State.jump_faultMark (t : Word) : (s.jump t).faultMark = s.faultMark := rfl
@[simp] theorem State.jump_outcome (t : Word) : (s.jump t).outcome = s.outcome := rfl
@[simp] theorem State.jump_rndIndex (t : Word) : (s.jump t).rndIndex = s.rndIndex := rfl
@[simp] theorem State.jump_cfg (t : Word) : (s.jump t).cfg = s.cfg := rfl

/-! ## beginStep -/

@[simp] theorem State.beginStep_v : s.beginStep.v = s.v := rfl
@[simp] theorem State.beginStep_i : s.beginStep.i = s.i := rfl
@[simp] theorem State.beginStep_pc : s.beginStep.pc = s.pc + 2#16 := rfl
@[simp] theorem State.beginStep_sp : s.beginStep.sp = s.sp := rfl
@[simp] theorem State.beginStep_stack : s.beginStep.stack = s.stack := rfl
@[simp] theorem State.beginStep_mem : s.beginStep.mem = s.mem := rfl
@[simp] theorem State.beginStep_fb : s.beginStep.fb = s.fb := rfl
@[simp] theorem State.beginStep_key : s.beginStep.key = s.key := rfl
@[simp] theorem State.beginStep_latch : s.beginStep.latch = s.latch := rfl
@[simp] theorem State.beginStep_pending : s.beginStep.pending = s.pending := rfl
@[simp] theorem State.beginStep_dt : s.beginStep.dt = s.dt := rfl
@[simp] theorem State.beginStep_st : s.beginStep.st = s.st := rfl
@[simp] theorem State.beginStep_faultMark : s.beginStep.faultMark = s.faultMark := rfl
@[simp] theorem State.beginStep_outcome : s.beginStep.outcome = .ok := rfl
@[simp] theorem State.beginStep_rndIndex : s.beginStep.rndIndex = s.rndIndex := rfl
@[simp] theorem State.beginStep_cfg : s.beginStep.cfg = s.cfg := rfl

/-! ## drawRnd -/

@[simp] theorem State.drawRnd_v : s.drawRnd.v = s.v := rfl
@[simp] theorem State.drawRnd_i : s.drawRnd.i = s.i := rfl
@[simp] theorem State.drawRnd_pc : s.drawRnd.pc = s.pc := rfl
@[simp] theorem State.drawRnd_sp : s.drawRnd.sp = s.sp := rfl
@[simp] theorem State.drawRnd_stack : s.drawRnd.stack = s.stack := rfl
@[simp] theorem State.drawRnd_mem : s.drawRnd.mem = s.mem := rfl
@[simp] theorem State.drawRnd_fb : s.drawRnd.fb = s.fb := rfl
@[simp] theorem State.drawRnd_key : s.drawRnd.key = s.key := rfl
@[simp] theorem State.drawRnd_latch : s.drawRnd.latch = s.latch := rfl
@[simp] theorem State.drawRnd_pending : s.drawRnd.pending = s.pending := rfl
@[simp] theorem State.drawRnd_dt : s.drawRnd.dt = s.dt := rfl
@[simp] theorem State.drawRnd_st : s.drawRnd.st = s.st := rfl
@[simp] theorem State.drawRnd_faultMark : s.drawRnd.faultMark = s.faultMark := rfl
@[simp] theorem State.drawRnd_outcome : s.drawRnd.outcome = s.outcome := rfl
@[simp] theorem State.drawRnd_rndIndex : s.drawRnd.rndIndex = s.rndIndex + 1 := rfl
@[simp] theorem State.drawRnd_cfg : s.drawRnd.cfg = s.cfg := rfl

/-! ## setKey -/

@[simp] theorem State.setKey_v (k : Nibble) (p : Bool) : (s.setKey k p).v = s.v := rfl
@[simp] theorem State.setKey_i (k : Nibble) (p : Bool) : (s.setKey k p).i = s.i := rfl
@[simp] theorem State.setKey_pc (k : Nibble) (p : Bool) : (s.setKey k p).pc = s.pc := rfl
@[simp] theorem State.setKey_sp (k : Nibble) (p : Bool) : (s.setKey k p).sp = s.sp := rfl
@[simp] theorem State.setKey_stack (k : Nibble) (p : Bool) : (s.setKey k p).stack = s.stack := rfl
@[simp] theorem State.setKey_mem (k : Nibble) (p : Bool) : (s.setKey k p).mem = s.mem := rfl
@[simp] theorem State.setKey_fb (k : Nibble) (p : Bool) : (s.setKey k p).fb = s.fb := rfl
@[simp] theorem State.setKey_key (k : Nibble) (p : Bool) : (s.setKey k p).key = s.key.set k.toNat p k.isLt := rfl
@[simp] theorem State.setKey_latch (k : Nibble) (p : Bool) : (s.setKey k p).latch = if p && s.latch.isNone then some k else s.latch := rfl
@[simp] theorem State.setKey_pending (k : Nibble) (p : Bool) : (s.setKey k p).pending = s.pending := rfl
@[simp] theorem State.setKey_dt (k : Nibble) (p : Bool) : (s.setKey k p).dt = s.dt := rfl
@[simp] theorem State.setKey_st (k : Nibble) (p : Bool) : (s.setKey k p).st = s.st := rfl
@[simp] theorem State.setKey_faultMark (k : Nibble) (p : Bool) : (s.setKey k p).faultMark = s.faultMark := rfl
@[simp] theorem State.setKey_outcome (k : Nibble) (p : Bool) : (s.setKey k p).outcome = s.outcome := rfl
@[simp] theorem State.setKey_rndIndex (k : Nibble) (p : Bool) : (s.setKey k p).rndIndex = s.rndIndex := rfl
@[simp] theorem State.setKey_cfg (k : Nibble) (p : Bool) : (s.setKey k p).cfg = s.cfg := rfl

/-! ## tickPort -/

@[simp] theorem State.tickPort_v : s.tickPort.v = s.v := rfl
@[simp] theorem State.tickPort_i : s.tickPort.i = s.i := rfl
@[simp] theorem State.tickPort_pc : s.tickPort.pc = s.pc := rfl
@[simp] theorem State.tickPort_sp : s.tickPort.sp = s.sp := rfl
@[simp] theorem State.tickPort_stack : s.tickPort.stack = s.stack := rfl
@[simp] theorem State.tickPort_mem : s.tickPort.mem = s.mem := rfl
@[simp] theorem State.tickPort_fb : s.tickPort.fb = s.fb := rfl
@[simp] theorem State.tickPort_key : s.tickPort.key = s.key := rfl
@[simp] theorem State.tickPort_latch : s.tickPort.latch = s.latch := rfl
@[simp] theorem State.tickPort_pending : s.tickPort.pending = s.pending := rfl
@[simp] theorem State.tickPort_dt : s.tickPort.dt = tickTimer s.dt := rfl
@[simp] theorem State.tickPort_st : s.tickPort.st = tickTimer s.st := rfl
@[simp] theorem State.tickPort_faultMark : s.tickPort.faultMark = s.faultMark := rfl
@[simp] theorem State.tickPort_outcome : s.tickPort.outcome = s.outcome := rfl
@[simp] theorem State.tickPort_rndIndex : s.tickPort.rndIndex = s.rndIndex := rfl
@[simp] theorem State.tickPort_cfg : s.tickPort.cfg = s.cfg := rfl

/-! ## resetPort, and the transactions by name -/

@[simp] theorem State.resetPort_v : s.resetPort.v = s.v := rfl
@[simp] theorem State.resetPort_i : s.resetPort.i = 0x0000#16 := rfl
@[simp] theorem State.resetPort_pc : s.resetPort.pc = 0x0200#16 := rfl
@[simp] theorem State.resetPort_sp : s.resetPort.sp = 0 := rfl
@[simp] theorem State.resetPort_stack : s.resetPort.stack = Vector.replicate 16 0x0000#16 := rfl
@[simp] theorem State.resetPort_mem :
    s.resetPort.mem = installBytes s.mem 0x000 (fontBytes s.cfg.font) := by
  simp only [State.resetPort]
@[simp] theorem State.resetPort_fb : s.resetPort.fb = s.fb := rfl
@[simp] theorem State.resetPort_key : s.resetPort.key = s.key := rfl
@[simp] theorem State.resetPort_latch : s.resetPort.latch = s.latch := rfl
@[simp] theorem State.resetPort_pending : s.resetPort.pending = s.pending := rfl
@[simp] theorem State.resetPort_dt : s.resetPort.dt = s.dt := rfl
@[simp] theorem State.resetPort_st : s.resetPort.st = s.st := rfl
@[simp] theorem State.resetPort_faultMark : s.resetPort.faultMark = s.faultMark := rfl
@[simp] theorem State.resetPort_outcome : s.resetPort.outcome = s.outcome := rfl
@[simp] theorem State.resetPort_rndIndex : s.resetPort.rndIndex = s.rndIndex := rfl
@[simp] theorem State.resetPort_cfg : s.resetPort.cfg = s.cfg := rfl

@[simp] theorem State.apply_step : s.apply .step = s.stepPort := rfl
@[simp] theorem State.apply_reset : s.apply .reset = s.resetPort := rfl
@[simp] theorem State.apply_load (b : List Byte) : s.apply (.load b) = (s.loadPort b).2 := rfl
@[simp] theorem State.apply_tick : s.apply .tick = s.tickPort := rfl
@[simp] theorem State.apply_setKey (k : Nibble) (p : Bool) : s.apply (.setKey k p) = s.setKey k p := rfl
@[simp] theorem State.setKeyPort_eq (k : Nibble) (p : Bool) : s.setKeyPort k p = s.setKey k p := rfl

theorem State.loadPort_fits {bytes : List Byte} (h : bytes.length ≤ maxRom) :
    s.loadPort bytes = (.ok, { s with mem := installBytes s.mem 0x200 bytes }) := by
  simp [State.loadPort, Nat.not_lt.mpr h]

theorem State.loadPort_tooLarge {bytes : List Byte} (h : maxRom < bytes.length) :
    s.loadPort bytes = (.programTooLarge, s) := by
  simp [State.loadPort, h]

theorem fontBytes_length (f : Font) : (fontBytes f).length = 80 := by simp [fontBytes]

/-- Byte `b` of glyph `g` (R41). -/
theorem fontByte_glyph (f : Font) {g b : Nat} (hg : g < 16) (hb : b < 5) :
    fontByte f (5 * g + b) = f[g][b] := by
  have h1 : (5 * g + b) / 5 = g := by omega
  have h2 : (5 * g + b) % 5 = b := by omega
  simp [fontByte, h1, h2, hg]

/-! ## skipIf and writeResultFlag: a choice between two updates -/

@[simp] theorem State.skipIf_pc (c : Bool) : (s.skipIf c).pc = if c then s.pc + 2#16 else s.pc := by
  cases c <;> rfl
@[simp] theorem State.skipIf_v (c : Bool) : (s.skipIf c).v = s.v := by cases c <;> rfl
@[simp] theorem State.skipIf_i (c : Bool) : (s.skipIf c).i = s.i := by cases c <;> rfl
@[simp] theorem State.skipIf_sp (c : Bool) : (s.skipIf c).sp = s.sp := by cases c <;> rfl
@[simp] theorem State.skipIf_stack (c : Bool) : (s.skipIf c).stack = s.stack := by cases c <;> rfl
@[simp] theorem State.skipIf_mem (c : Bool) : (s.skipIf c).mem = s.mem := by cases c <;> rfl
@[simp] theorem State.skipIf_fb (c : Bool) : (s.skipIf c).fb = s.fb := by cases c <;> rfl
@[simp] theorem State.skipIf_key (c : Bool) : (s.skipIf c).key = s.key := by cases c <;> rfl
@[simp] theorem State.skipIf_latch (c : Bool) : (s.skipIf c).latch = s.latch := by cases c <;> rfl
@[simp] theorem State.skipIf_pending (c : Bool) : (s.skipIf c).pending = s.pending := by cases c <;> rfl
@[simp] theorem State.skipIf_dt (c : Bool) : (s.skipIf c).dt = s.dt := by cases c <;> rfl
@[simp] theorem State.skipIf_st (c : Bool) : (s.skipIf c).st = s.st := by cases c <;> rfl
@[simp] theorem State.skipIf_faultMark (c : Bool) : (s.skipIf c).faultMark = s.faultMark := by cases c <;> rfl
@[simp] theorem State.skipIf_outcome (c : Bool) : (s.skipIf c).outcome = s.outcome := by cases c <;> rfl
@[simp] theorem State.skipIf_rndIndex (c : Bool) : (s.skipIf c).rndIndex = s.rndIndex := by cases c <;> rfl
@[simp] theorem State.skipIf_cfg (c : Bool) : (s.skipIf c).cfg = s.cfg := by cases c <;> rfl

@[simp] theorem State.writeResultFlag_i (x : Nibble) (r f : Byte) :
    (s.writeResultFlag x r f).i = s.i := by unfold State.writeResultFlag; split <;> rfl
@[simp] theorem State.writeResultFlag_pc (x : Nibble) (r f : Byte) :
    (s.writeResultFlag x r f).pc = s.pc := by unfold State.writeResultFlag; split <;> rfl
@[simp] theorem State.writeResultFlag_sp (x : Nibble) (r f : Byte) :
    (s.writeResultFlag x r f).sp = s.sp := by unfold State.writeResultFlag; split <;> rfl
@[simp] theorem State.writeResultFlag_stack (x : Nibble) (r f : Byte) :
    (s.writeResultFlag x r f).stack = s.stack := by unfold State.writeResultFlag; split <;> rfl
@[simp] theorem State.writeResultFlag_mem (x : Nibble) (r f : Byte) :
    (s.writeResultFlag x r f).mem = s.mem := by unfold State.writeResultFlag; split <;> rfl
@[simp] theorem State.writeResultFlag_fb (x : Nibble) (r f : Byte) :
    (s.writeResultFlag x r f).fb = s.fb := by unfold State.writeResultFlag; split <;> rfl
@[simp] theorem State.writeResultFlag_key (x : Nibble) (r f : Byte) :
    (s.writeResultFlag x r f).key = s.key := by unfold State.writeResultFlag; split <;> rfl
@[simp] theorem State.writeResultFlag_latch (x : Nibble) (r f : Byte) :
    (s.writeResultFlag x r f).latch = s.latch := by unfold State.writeResultFlag; split <;> rfl
@[simp] theorem State.writeResultFlag_pending (x : Nibble) (r f : Byte) :
    (s.writeResultFlag x r f).pending = s.pending := by unfold State.writeResultFlag; split <;> rfl
@[simp] theorem State.writeResultFlag_dt (x : Nibble) (r f : Byte) :
    (s.writeResultFlag x r f).dt = s.dt := by unfold State.writeResultFlag; split <;> rfl
@[simp] theorem State.writeResultFlag_st (x : Nibble) (r f : Byte) :
    (s.writeResultFlag x r f).st = s.st := by unfold State.writeResultFlag; split <;> rfl
@[simp] theorem State.writeResultFlag_faultMark (x : Nibble) (r f : Byte) :
    (s.writeResultFlag x r f).faultMark = s.faultMark := by unfold State.writeResultFlag; split <;> rfl
@[simp] theorem State.writeResultFlag_outcome (x : Nibble) (r f : Byte) :
    (s.writeResultFlag x r f).outcome = s.outcome := by unfold State.writeResultFlag; split <;> rfl
@[simp] theorem State.writeResultFlag_rndIndex (x : Nibble) (r f : Byte) :
    (s.writeResultFlag x r f).rndIndex = s.rndIndex := by unfold State.writeResultFlag; split <;> rfl
@[simp] theorem State.writeResultFlag_cfg (x : Nibble) (r f : Byte) :
    (s.writeResultFlag x r f).cfg = s.cfg := by unfold State.writeResultFlag; split <;> rfl

end Sys2Proof.Machine
end

