-- ==== Sys2Proof/Laws/Devices.lean ====
section
/-! SUPPORT. The devices: what a toggle, a row and a sprite do to every pixel and to the collision
flag, and what a poll, a key event and a tick do. -/

namespace Sys2Proof.Machine

/-! ## One pixel -/

theorem Framebuffer.pixel_clear (px py : Nat) : Framebuffer.clear.pixel px py = false := by
  simp [Framebuffer.pixel, Framebuffer.clear]

/-- Only the coordinates modulo 64 and 32 matter (R331). -/
theorem Framebuffer.pixel_mod (fb : Framebuffer) {px py qx qy : Nat} (hx : px % 64 = qx % 64)
    (hy : py % 32 = qy % 32) : fb.pixel px py = fb.pixel qx qy := by
  simp [Framebuffer.pixel, hx, hy]

theorem Framebuffer.pixel_setPixel (fb : Framebuffer) (px py qx qy : Nat) (b : Bool) :
    (fb.setPixel px py b).pixel qx qy =
      if px % 64 = qx % 64 ∧ py % 32 = qy % 32 then b else fb.pixel qx qy := by
  by_cases hx : px % 64 = qx % 64
  · by_cases hy : py % 32 = qy % 32
    · simp [Framebuffer.pixel, Framebuffer.setPixel, hx, hy]
    · simp [Framebuffer.pixel, Framebuffer.setPixel, hx, hy]
  · simp [Framebuffer.pixel, Framebuffer.setPixel, hx]

/-- Two framebuffers with the same pixels are the same. -/
theorem Framebuffer.ext_pixel {f g : Framebuffer}
    (h : ∀ px py, px < 64 → py < 32 → f.pixel px py = g.pixel px py) : f = g := by
  apply Vector.ext
  intro px hx
  apply Vector.ext
  intro py hy
  have := h px py hx hy
  simpa [Framebuffer.pixel, Nat.mod_eq_of_lt hx, Nat.mod_eq_of_lt hy] using this

/-- A toggle XORs one pixel (R331). -/
theorem Framebuffer.pixel_toggle (fb : Framebuffer) (px py qx qy : Nat) (b : Bool) :
    (fb.toggle px py b).1.pixel qx qy =
      (fb.pixel qx qy ^^ (decide (px % 64 = qx % 64 ∧ py % 32 = qy % 32) && b)) := by
  unfold Framebuffer.toggle
  rw [Framebuffer.pixel_setPixel]
  split
  · rename_i h; rw [Framebuffer.pixel_mod fb h.1 h.2]; simp [h]
  · simp [*]

/-! ## One row of a sprite -/

/-- Whether the first `k` columns of a row have a 1 bit at column `qx` of the framebuffer. -/
def rowBit (px : Nat) (row : Byte) (qx k : Nat) : Bool :=
  (List.range k).any fun col => decide ((px + col) % 64 = qx % 64) && row.getLsbD (7 - col)

theorem rowBit_succ (px : Nat) (row : Byte) (qx k : Nat) :
    rowBit px row qx (k + 1) =
      (rowBit px row qx k || (decide ((px + k) % 64 = qx % 64) && row.getLsbD (7 - k))) := by
  simp [rowBit, List.range_succ]

/-- Column `px + k` lies under none of the `k` columns before it. -/
theorem rowBit_later (px : Nat) (row : Byte) {qx k : Nat} (hk : k < 64)
    (h : (px + k) % 64 = qx % 64) : rowBit px row qx k = false := by
  simp only [rowBit, List.any_eq_false, List.mem_range, Bool.and_eq_true, decide_eq_true_eq]
  intro col hc hand
  omega

/-- The bit of the row at one of its own columns. -/
theorem rowBit_at (px : Nat) (row : Byte) {col k : Nat} (hc : col < k) (hk : k ≤ 64) :
    rowBit px row (px + col) k = row.getLsbD (7 - col) := by
  induction k with
  | zero => omega
  | succ k ih =>
    rw [rowBit_succ]
    by_cases he : col = k
    · subst he
      rw [rowBit_later px row (by omega) rfl]; simp
    · rw [ih (by omega) (by omega)]
      have : ¬ (px + k) % 64 = (px + col) % 64 := by omega
      simp [this]

theorem pixel_drawCols (px py : Nat) (row : Byte) (acc : Framebuffer × Bool) (qx qy : Nat) {k : Nat}
    (hk : k ≤ 64) :
    (drawCols px py row k acc).1.pixel qx qy =
      (acc.1.pixel qx qy ^^ (decide (py % 32 = qy % 32) && rowBit px row qx k)) := by
  induction k with
  | zero => simp [drawCols, rowBit]
  | succ k ih =>
    have hk' : k < 64 := by omega
    simp only [drawCols, Framebuffer.pixel_toggle, ih (by omega), rowBit_succ]
    by_cases hx : (px + k) % 64 = qx % 64
    · simp only [rowBit_later px row hk' hx, hx]; simp
    · simp [hx]

theorem collided_drawCols (px py : Nat) (row : Byte) (acc : Framebuffer × Bool) {k : Nat}
    (hk : k ≤ 64) :
    (drawCols px py row k acc).2 =
      (acc.2 || (List.range k).any fun col =>
        acc.1.pixel (px + col) py && row.getLsbD (7 - col)) := by
  induction k with
  | zero => simp [drawCols]
  | succ k ih =>
    simp only [drawCols, Framebuffer.toggle, ih (by omega), List.range_succ, List.any_append,
      List.any_cons, List.any_nil, Bool.or_false]
    rw [pixel_drawCols px py row acc (px + k) py (by omega), rowBit_later px row (by omega) rfl]
    simp [Bool.or_assoc]

/-! ## A sprite -/

/-- Whether a sprite whose rows start at `py` has a 1 bit at a pixel. -/
def spriteBit (px : Nat) : Nat → List Byte → Nat → Nat → Bool
  | _, [], _, _ => false
  | py, row :: rows, qx, qy =>
    (decide (py % 32 = qy % 32) && rowBit px row qx 8) || spriteBit px (py + 1) rows qx qy

/-- A pixel whose row is none of the sprite's rows is under no bit of it. -/
theorem spriteBit_row_outside (px : Nat) {rows : List Byte} {py qx qy : Nat}
    (h : ∀ r, r < rows.length → (py + r) % 32 ≠ qy % 32) : spriteBit px py rows qx qy = false := by
  induction rows generalizing py with
  | nil => rfl
  | cons row rows ih =>
    have h0 := h 0 (by simp)
    rw [spriteBit, ih]
    · simpa using fun e => absurd e h0
    · intro r hr
      have := h (r + 1) (by simpa using hr)
      rwa [show py + 1 + r = py + (r + 1) by omega]

/-- A pixel that is none of the sprite's 8 × n is under no bit of it. -/
theorem spriteBit_outside (px : Nat) {rows : List Byte} {py qx qy : Nat}
    (h : ∀ r, r < rows.length → ∀ col, col < 8 →
      ¬ ((px + col) % 64 = qx % 64 ∧ (py + r) % 32 = qy % 32)) :
    spriteBit px py rows qx qy = false := by
  induction rows generalizing py with
  | nil => rfl
  | cons row rows ih =>
    rw [spriteBit, ih]
    · simp only [Bool.or_false, Bool.and_eq_false_iff, decide_eq_false_iff_not]
      by_cases hy : py % 32 = qy % 32
      · right
        simp only [rowBit, List.any_eq_false, List.mem_range, Bool.and_eq_true, decide_eq_true_eq]
        intro col hc hand
        exact h 0 (by simp) col hc ⟨hand.1, hy⟩
      · exact .inl hy
    · intro r hr col hc
      have := h (r + 1) (by simpa using hr) col hc
      rwa [show py + 1 + r = py + (r + 1) by omega]

/-- The bit of a sprite at one of its own pixels. -/
theorem spriteBit_at (px : Nat) {rows : List Byte} {py r col : Nat} (hn : rows.length ≤ 32)
    (hr : r < rows.length) (hc : col < 8) :
    spriteBit px py rows (px + col) (py + r) = rows[r].getLsbD (7 - col) := by
  induction rows generalizing py r with
  | nil => simp at hr
  | cons row rows ih =>
    simp only [List.length_cons] at hn hr
    rw [spriteBit]
    cases r with
    | zero =>
      rw [spriteBit_row_outside px (by intro r hr; omega), rowBit_at px row hc (by omega)]
      simp
    | succ r =>
      have := ih (py := py + 1) (r := r) (by omega) (by omega)
      rw [show py + (r + 1) = py + 1 + r by omega, this]
      have : ¬ py % 32 = (py + 1 + r) % 32 := by omega
      simp [this]

/-- Every pixel after a sprite is drawn: XORed with the sprite's bit there (R262, R331). -/
theorem pixel_drawRows (px : Nat) {rows : List Byte} (py : Nat) (acc : Framebuffer × Bool)
    (qx qy : Nat) (hn : rows.length ≤ 32) :
    (drawRows px py rows acc).1.pixel qx qy =
      (acc.1.pixel qx qy ^^ spriteBit px py rows qx qy) := by
  induction rows generalizing py acc with
  | nil => simp [drawRows, spriteBit]
  | cons row rows ih =>
    simp only [List.length_cons] at hn
    rw [drawRows, ih _ _ (by omega), pixel_drawCols px py row acc qx qy (by omega), spriteBit]
    by_cases hy : py % 32 = qy % 32
    · rw [spriteBit_row_outside px (by intro r hr; omega)]; simp
    · simp [hy]

/-- The collision flag after a sprite is drawn: some bit of it lies over a pixel that was lit before
(R262). -/
theorem collided_drawRows (px : Nat) {rows : List Byte} (py : Nat) (acc : Framebuffer × Bool)
    (hn : rows.length ≤ 32) :
    (drawRows px py rows acc).2 = true ↔
      acc.2 = true ∨ ∃ r, ∃ h : r < rows.length, ∃ col, col < 8 ∧
        acc.1.pixel (px + col) (py + r) = true ∧ rows[r].getLsbD (7 - col) = true := by
  induction rows generalizing py acc with
  | nil => simp [drawRows]
  | cons row rows ih =>
    simp only [List.length_cons] at hn
    rw [drawRows, ih _ _ (by omega), collided_drawCols px py row acc (by omega)]
    have below : ∀ r, r < rows.length → ∀ col,
        (drawCols px py row 8 acc).1.pixel (px + col) (py + 1 + r) =
          acc.1.pixel (px + col) (py + (r + 1)) := by
      intro r hr col
      have hne : ¬ py % 32 = (py + (r + 1)) % 32 := by omega
      rw [pixel_drawCols px py row acc _ _ (by omega), show py + 1 + r = py + (r + 1) by omega]
      simp [hne]
    constructor
    · rintro (h | ⟨r, hr, col, hc, hp, hb⟩)
      · simp only [Bool.or_eq_true, List.any_eq_true, List.mem_range, Bool.and_eq_true] at h
        rcases h with h | ⟨col, hc, hp, hb⟩
        · exact .inl h
        · exact .inr ⟨0, by simp, col, hc, hp, hb⟩
      · rw [below r hr] at hp
        exact .inr ⟨r + 1, by simpa using hr, col, hc, hp, hb⟩
    · rintro (h | ⟨r, hr, col, hc, hp, hb⟩)
      · left; simp [h]
      · cases r with
        | zero =>
          left
          simp only [Bool.or_eq_true, List.any_eq_true, List.mem_range, Bool.and_eq_true]
          exact .inr ⟨col, hc, hp, hb⟩
        | succ r =>
          simp only [List.length_cons] at hr
          right
          exact ⟨r, by omega, col, hc, by rw [below r (by omega)]; exact hp, hb⟩

/-! ## Input latch and timers -/

/-- Everything a poll can do (R344). -/
theorem pollBlockingRead_cases (s : State) :
    (s.pending = false ∧ s.pollBlockingRead = (none, { s with pending := true })) ∨
    (∃ k, s.pending = true ∧ s.latch = some k ∧
      s.pollBlockingRead = (some k, { s with latch := none, pending := false })) ∨
    (s.pending = true ∧ s.latch = none ∧ s.pollBlockingRead = (none, s)) := by
  unfold State.pollBlockingRead
  cases hp : s.pending <;> cases hl : s.latch <;> simp

/-- A key's state after a key event (R342). -/
theorem isPressed_setKey (s : State) (k j : Nibble) (p : Bool) :
    (s.setKey k p).isPressed j = if j = k then p else s.isPressed j := by
  by_cases h : j = k
  · subst h; simp [State.isPressed]
  · have : k.toNat ≠ j.toNat := fun e => h (BitVec.eq_of_toNat_eq e.symm)
    simp [State.isPressed, h, this]

/-- A tick counts down and stays at 0 (R346). -/
theorem toNat_tickTimer (t : Byte) : (tickTimer t).toNat = t.toNat - 1 := by
  unfold tickTimer
  split
  · subst t; rfl
  · have h : t.toNat ≠ 0 := fun e => ‹¬ t = 0#8› (BitVec.eq_of_toNat_eq (by simpa using e))
    have := t.isLt
    rw [BitVec.toNat_sub]
    simp only [BitVec.toNat_ofNat]
    omega

end Sys2Proof.Machine
end

