-- ==== Sys2Proof/Laws/Driver.lean ====
section
/-! SUPPORT. The driver's side: what a step transaction, a run of steps and a frame do, said once
(spec/60_exceptions.md R314, R350). -/

namespace Sys2Proof.Machine

/-! ## The fault state -/

@[simp] theorem State.enterFault_faultMark (s : State) (f : Fault) :
    (s.enterFault f).faultMark = some f := rfl

@[simp] theorem State.enterFault_key (s : State) (f : Fault) : (s.enterFault f).key = s.key := rfl

@[simp] theorem State.enterFault_outcome (s : State) (f : Fault) :
    (s.enterFault f).outcome = s.outcome := rfl

@[simp] theorem State.enterFault_rndIndex (s : State) (f : Fault) :
    (s.enterFault f).rndIndex = s.rndIndex := rfl

@[simp] theorem State.enterFault_cfg (s : State) (f : Fault) : (s.enterFault f).cfg = s.cfg := rfl

/-- Everything a step transaction can do: nothing to a marked state, else the step's next state, or
the fault state of the step's fault, or nothing where the step is refused. -/
theorem stepPort_cases (s : State) :
    (∃ f, s.faultMark = some f ∧ s.stepPort = s) ∨
    (s.faultMark = none ∧
      ((∃ t, step s = .next t ∧ s.stepPort = t) ∨
       (∃ f, step s = .fault f ∧ s.stepPort = s.enterFault f) ∨
       (∃ r, step s = .refused r ∧ s.stepPort = s))) := by
  unfold State.stepPort
  cases s.faultMark with
  | some f => exact .inl ⟨f, rfl, rfl⟩
  | none =>
    refine .inr ⟨rfl, ?_⟩
    cases step s with
    | next t => exact .inl ⟨t, rfl, rfl⟩
    | fault f => exact .inr (.inl ⟨f, rfl, rfl⟩)
    | refused r => exact .inr (.inr ⟨r, rfl, rfl⟩)

theorem stepPort_marked {s : State} {f : Fault} (h : s.faultMark = some f) : s.stepPort = s := by
  simp [State.stepPort, h]

theorem iterate_stepPort_marked {s : State} {f : Fault} (h : s.faultMark = some f) (n : Nat) :
    State.stepPort^[n] s = s :=
  Function.iterate_fixed (stepPort_marked h) n

/-! ## Runs of steps -/

theorem runSteps_succ_clear {s : State} (n : Nat) (h : s.stepPort.faultMark = none) :
    s.runSteps (n + 1) =
      (s.stepPort.outcome :: (s.stepPort.runSteps n).1, (s.stepPort.runSteps n).2) := by
  rw [State.runSteps, h]

theorem runSteps_succ_marked {s : State} {f : Fault} (n : Nat)
    (h : s.stepPort.faultMark = some f) : s.runSteps (n + 1) = ([], s.stepPort) := by
  rw [State.runSteps, h]

/-- A run of steps leaves the state that many step transactions leave: past a fault they change
nothing. -/
theorem runSteps_state (n : Nat) (s : State) : (s.runSteps n).2 = State.stepPort^[n] s := by
  induction n generalizing s with
  | zero => rfl
  | succ n ih =>
    rw [Function.iterate_succ_apply]
    cases h : s.stepPort.faultMark with
    | some f => rw [runSteps_succ_marked n h, iterate_stepPort_marked h]
    | none => rw [runSteps_succ_clear n h, ih]

/-! ## Frames -/

/-- The events of a frame, as one fold over the `set_key` transactions. -/
theorem applyEvents_eq_foldl (events : List KeyEvent) (s : State) :
    s.applyEvents events = events.foldl (fun u e => u.setKeyPort e.1 e.2) s := by
  induction events generalizing s with
  | nil => rfl
  | cons e rest ih => exact ih _

@[simp] theorem faultMark_applyEvents (events : List KeyEvent) (s : State) :
    (s.applyEvents events).faultMark = s.faultMark := by
  induction events generalizing s with
  | nil => rfl
  | cons e rest ih => exact ih _

/-- The rendered grid holds at each place what `fb_read` gives there. -/
theorem render_pixel (s : State) (px : Fin 64) (py : Fin 32) : s.render[px][py] = s.fbRead px py := by
  simp [State.render]

theorem frame_marked {s : State} {f : Fault} (h : s.faultMark = some f) (ipf : Nat)
    (events : List KeyEvent) : s.frame ipf events = ({ outcomes := [], grid := none }, s) := by
  rw [State.frame, h]

/-- A frame from a state with no mark: its steps, and the grid exactly when none of them faulted. -/
theorem frame_clear {s : State} (h : s.faultMark = none) (ipf : Nat) (events : List KeyEvent) :
    s.frame ipf events =
      let ran := (s.applyEvents events).tickPort.runSteps ipf
      ({ outcomes := ran.1, grid := if ran.2.faultMark = none then some ran.2.render else none },
        ran.2) := by
  simp only [State.frame, h]
  split <;> simp [*]

end Sys2Proof.Machine
end

