-- ==== Sys2Proof/Laws/Memory.lean ====
section
/-! SUPPORT. Memory: read after write, the canonical form, and what a block access answers. -/

namespace Sys2Proof.Machine

/-! ## The canonical form -/

theorem Memory.wfFrom_cons {lo k : Nat} {b : Byte} {rest : Memory} :
    Memory.wfFrom lo ((k, b) :: rest) = true ↔
      lo ≤ k ∧ k < memSize ∧ b ≠ background k ∧ Memory.wfFrom (k + 1) rest = true := by
  simp [Memory.wfFrom, and_assoc]

theorem Memory.wfFrom_mono {m : Memory} {lo lo' : Nat} (h : Memory.wfFrom lo m = true)
    (hl : lo' ≤ lo) : Memory.wfFrom lo' m = true := by
  cases m with
  | nil => rfl
  | cons c rest =>
    obtain ⟨k, b⟩ := c
    rw [Memory.wfFrom_cons] at h ⊢
    exact ⟨by omega, h.2⟩

/-- An address below every listed one reads as `background`. -/
theorem Memory.read_below {m : Memory} {lo a : Nat} (h : Memory.wfFrom lo m = true) (ha : a < lo) :
    m.read a = background a := by
  induction m generalizing lo with
  | nil => rfl
  | cons c rest ih =>
    obtain ⟨k, b⟩ := c
    rw [Memory.wfFrom_cons] at h
    rw [Memory.read, if_neg (by omega)]
    exact ih h.2.2.2 (by omega)

theorem Memory.wfFrom_write {m : Memory} {lo a : Nat} {v : Byte} (h : Memory.wfFrom lo m = true)
    (hlo : lo ≤ a) (ha : a < memSize) : Memory.wfFrom lo (m.write a v) = true := by
  induction m generalizing lo with
  | nil =>
    unfold Memory.write
    split
    · rfl
    · exact Memory.wfFrom_cons.2 ⟨hlo, ha, ‹_›, rfl⟩
  | cons c rest ih =>
    obtain ⟨k, b⟩ := c
    rw [Memory.wfFrom_cons] at h
    obtain ⟨h1, h2, h3, h4⟩ := h
    unfold Memory.write
    split
    · exact Memory.wfFrom_cons.2 ⟨h1, h2, h3, ih h4 (by omega)⟩
    · split
      · split
        · exact Memory.wfFrom_mono h4 (by omega)
        · subst k; exact Memory.wfFrom_cons.2 ⟨hlo, ha, ‹_›, h4⟩
      · split
        · exact Memory.wfFrom_cons.2 ⟨h1, h2, h3, h4⟩
        · exact Memory.wfFrom_cons.2
            ⟨hlo, ha, ‹_›, Memory.wfFrom_cons.2 ⟨by omega, h2, h3, h4⟩⟩

/-- A write inside memory keeps the canonical form. -/
theorem Memory.wf_write {m : Memory} {a : Nat} {v : Byte} (h : m.wf = true) (ha : a < memSize) :
    (m.write a v).wf = true :=
  Memory.wfFrom_write h (Nat.zero_le a) ha

/-! ## Read after write -/

theorem Memory.read_write_same_from {m : Memory} {lo a : Nat} {v : Byte}
    (h : Memory.wfFrom lo m = true) : (m.write a v).read a = v := by
  induction m generalizing lo with
  | nil => unfold Memory.write; split <;> simp [Memory.read, *]
  | cons c rest ih =>
    obtain ⟨k, b⟩ := c
    rw [Memory.wfFrom_cons] at h
    unfold Memory.write
    split
    · rw [Memory.read, if_neg (by omega)]; exact ih h.2.2.2
    · split
      · split
        · subst v; exact Memory.read_below h.2.2.2 (by omega)
        · simp [Memory.read]
      · split
        · subst v
          rw [Memory.read, if_neg ‹_›]
          exact Memory.read_below h.2.2.2 (by omega)
        · simp [Memory.read]

/-- The byte written reads back. -/
theorem Memory.read_write_same {m : Memory} {a : Nat} {v : Byte} (h : m.wf = true) :
    (m.write a v).read a = v :=
  Memory.read_write_same_from h

/-- Every other byte reads as before. -/
theorem Memory.read_write_other {m : Memory} {a a' : Nat} {v : Byte} (h : a' ≠ a) :
    (m.write a v).read a' = m.read a' := by
  induction m with
  | nil => unfold Memory.write; split <;> simp [Memory.read, h.symm]
  | cons c rest ih =>
    obtain ⟨k, b⟩ := c
    unfold Memory.write
    split
    · simp [Memory.read, ih]
    · split
      · subst k; split <;> simp [Memory.read, h.symm]
      · split
        · rfl
        · simp [Memory.read, h.symm]

/-! ## Block writes -/

/-- Bytes outside the block read as before. -/
theorem read_installBytes_other {bs : List Byte} {m : Memory} {a a' : Nat}
    (h : a' < a ∨ a + bs.length ≤ a') : (installBytes m a bs).read a' = m.read a' := by
  induction bs generalizing m a with
  | nil => rfl
  | cons b bs ih =>
    simp only [List.length_cons] at h
    rw [installBytes, ih (by omega), Memory.read_write_other (by omega)]

/-- A block inside memory keeps the canonical form. -/
theorem wf_installBytes {bs : List Byte} {m : Memory} {a : Nat} (h : m.wf = true)
    (ha : a + bs.length ≤ memSize) : (installBytes m a bs).wf = true := by
  induction bs generalizing m a with
  | nil => exact h
  | cons b bs ih =>
    simp only [List.length_cons] at ha
    exact ih (Memory.wf_write h (by omega)) (by omega)

/-- Byte `j` of the block reads back at address `a + j`. -/
theorem read_installBytes_same {bs : List Byte} {m : Memory} {a j : Nat} (h : m.wf = true)
    (ha : a + bs.length ≤ memSize) (hj : j < bs.length) :
    (installBytes m a bs).read (a + j) = bs[j] := by
  induction bs generalizing m a j with
  | nil => simp at hj
  | cons b bs ih =>
    simp only [List.length_cons] at ha hj
    cases j with
    | zero =>
      change (installBytes (m.write a b) (a + 1) bs).read a = b
      rw [read_installBytes_other (by omega), Memory.read_write_same h]
    | succ j =>
      have := ih (m := m.write a b) (a := a + 1) (j := j) (Memory.wf_write h (by omega))
        (by omega) (by omega)
      rw [installBytes, show a + (j + 1) = a + 1 + j by omega, this]
      rfl

/-- A checked block write: all of it, or the first address outside memory. -/
theorem writeBlock_eq (bs : List Byte) (m : Memory) (a : Nat) :
    writeBlock m a bs =
      if bs = [] ∨ a + bs.length ≤ memSize then .ok (installBytes m a bs)
      else .error (max a memSize) := by
  induction bs generalizing m a with
  | nil => simp [writeBlock, installBytes]
  | cons b bs ih =>
    unfold writeBlock memWrite
    by_cases ha : a < memSize
    · simp only [if_pos ha, ih, installBytes, reduceCtorEq, false_or, List.length_cons]
      have e1 : (bs = [] ∨ a + 1 + bs.length ≤ memSize) ↔ a + (bs.length + 1) ≤ memSize := by
        constructor
        · rintro (rfl | h)
          · simp; omega
          · omega
        · intro h; right; omega
      simp only [e1]
      split
      · rfl
      · congr 1; omega
    · rw [if_neg ha, if_neg (by simp; omega)]
      simp only
      congr 1; omega

/-- A checked block read: all of it, or the first address outside memory. -/
theorem readBlock_eq (m : Memory) (k a : Nat) :
    readBlock m a k =
      if k = 0 ∨ a + k ≤ memSize then .ok ((List.range k).map fun j => m.read (a + j))
      else .error (max a memSize) := by
  induction k generalizing a with
  | zero => simp [readBlock]
  | succ k ih =>
    unfold readBlock memRead
    by_cases ha : a < memSize
    · simp only [if_pos ha, ih]
      have e1 : (k = 0 ∨ a + 1 + k ≤ memSize) ↔ (k + 1 = 0 ∨ a + (k + 1) ≤ memSize) := by omega
      simp only [e1]
      by_cases hk : k + 1 = 0 ∨ a + (k + 1) ≤ memSize
      · simp only [if_pos hk]
        rw [List.range_succ_eq_map]
        simp only [List.map_cons, List.map_map, Nat.add_zero]
        congr 3
        funext j
        simp only [Function.comp]
        congr 1; omega
      · simp only [if_neg hk]
        congr 1; omega
    · rw [if_neg ha, if_neg (by omega)]
      simp only
      congr 1; omega

end Sys2Proof.Machine
end

