-- ==== Sys2Proof/Laws/Registers.lean ====
section
/-! SUPPORT. General registers: read after write, register blocks, results with a flag. -/

namespace Sys2Proof.Machine

/-- A write to a register is read back there and nowhere else. -/
theorem State.reg_setReg (s : State) (x r : Nibble) (b : Byte) :
    (s.setReg x b).reg r = if r = x then b else s.reg r := by
  by_cases h : r = x
  · subst h; simp [State.reg, State.setReg]
  · have : x.toNat ≠ r.toNat := fun e => h (BitVec.eq_of_toNat_eq e.symm)
    simp [State.reg, State.setReg, h, this]

@[simp] theorem State.reg_setReg_same (s : State) (x : Nibble) (b : Byte) :
    (s.setReg x b).reg x = b := by simp [State.reg_setReg]

theorem State.reg_setReg_other (s : State) {x r : Nibble} (b : Byte) (h : r ≠ x) :
    (s.setReg x b).reg r = s.reg r := by simp [State.reg_setReg, h]

/-- Two states with the same register file read the same. -/
theorem State.reg_congr {s t : State} (h : t.v = s.v) (r : Nibble) : t.reg r = s.reg r := by
  simp [State.reg, h]

/-- A state is its own copy with the register file it has. -/
theorem State.setReg_eq (s : State) (x : Nibble) (b : Byte) :
    s.setReg x b = { s with v := (s.setReg x b).v } := rfl

/-- What a result with a flag leaves in each register (R180). -/
theorem State.reg_writeResultFlag (s : State) (x r : Nibble) (res f : Byte) :
    (s.writeResultFlag x res f).reg r =
      if r = vf then
        if x = vf then (match s.cfg.vfOrder with | .flagLast => f | .resultLast => res) else f
      else if r = x then res else s.reg r := by
  unfold State.writeResultFlag
  cases s.cfg.vfOrder <;> by_cases hr : r = vf <;> by_cases hx : x = vf <;>
    simp [State.reg_setReg, hr, hx, eq_comm]

/-- Only the register file changes. -/
theorem State.writeResultFlag_eq (s : State) (x : Nibble) (res f : Byte) :
    s.writeResultFlag x res f = { s with v := (s.writeResultFlag x res f).v } := by
  unfold State.writeResultFlag; split <;> rfl

/-- Register `r` after a block load of registers `j`, `j+1`, … . -/
theorem setRegBlock_get (bs : List Byte) (v : Vector Byte 16) (j r : Nat) (hr : r < 16) :
    (setRegBlock v j bs)[r] =
      if h : j ≤ r ∧ r < j + bs.length then bs[r - j]'(by omega) else v[r] := by
  induction bs generalizing v j with
  | nil => simp [setRegBlock]
  | cons b bs ih =>
    rw [setRegBlock, ih]
    by_cases h1 : j = r
    · subst h1; simp
    · by_cases h2 : j + 1 ≤ r ∧ r < j + 1 + bs.length
      · have h3 : j ≤ r ∧ r < j + (b :: bs).length := by simp; omega
        rw [dif_pos h2, dif_pos h3]
        have : r - j = (r - (j + 1)) + 1 := by omega
        simp only [this, List.getElem_cons_succ]
      · have h3 : ¬ (j ≤ r ∧ r < j + (b :: bs).length) := by simp; omega
        rw [dif_neg h2, dif_neg h3, Vector.getElem_setIfInBounds]
        simp [h1]

/-- The length of a register block (R240). -/
theorem State.regBlock_length (s : State) (x : Nibble) : (s.regBlock x).length = x.toNat + 1 := by
  have := x.isLt
  simp [State.regBlock]; omega

/-- Byte `j` of a register block is `V[j]` (R240). -/
theorem State.regBlock_get (s : State) (x : Nibble) (j : Nat) (h : j < (s.regBlock x).length) :
    (s.regBlock x)[j] = s.v[j]'(by rw [State.regBlock_length] at h; have := x.isLt; omega) := by
  simp [State.regBlock]

end Sys2Proof.Machine
end

