-- ==== Sys2Proof/Laws/Exec.lean ====
section
/-! SUPPORT. What each shared operation of the meanings answers, and what a step answers, said once.
Provers cite these and unfold nothing. -/

namespace Sys2Proof.Machine

/-! ## Call stack -/

theorem popCall_empty {s : State} (h : s.sp = 0) :
    popCall s = .next { s with outcome := .emptyCallStack } := by
  simp [popCall, returnErr, h]

theorem popCall_pops {s : State} (h : s.sp ≠ 0) :
    popCall s = .next { s with
      sp := ⟨s.sp.val - 1, by omega⟩
      pc := s.stack[s.sp.val - 1]'(by have := s.sp.isLt; have : s.sp.val ≠ 0 := fun e => h (Fin.ext e); omega) } := by
  have : s.sp.val ≠ 0 := fun e => h (Fin.ext e)
  simp [popCall, this]

theorem pushCall_full {s : State} {target : Word} (h : s.sp.val = 16) :
    pushCall target s = .next { s with outcome := .callStackOverflow } := by
  simp [pushCall, returnErr, h]

theorem pushCall_pushes {s : State} {target : Word} (h : s.sp.val < 16) :
    pushCall target s = .next { s with
      stack := s.stack.set s.sp.val s.pc h
      sp := ⟨s.sp.val + 1, by omega⟩
      pc := target } := by
  have : s.sp.val ≠ 16 := by omega
  simp [pushCall, this]

/-! ## Stores and loads through the index register -/

theorem storeAtIndex_stores {s : State} {bs : List Byte} (h : s.i.toNat + bs.length ≤ memSize) :
    storeAtIndex s bs = .next { s with mem := installBytes s.mem s.i.toNat bs } := by
  simp [storeAtIndex, State.indexAddr, writeBlock_eq, h]

theorem storeAtIndex_faults {s : State} {bs : List Byte} (hb : bs ≠ [])
    (h : memSize < s.i.toNat + bs.length) :
    storeAtIndex s bs = .fault (.memoryOutOfBounds (s.pc - 2#16) (max s.i.toNat memSize)) := by
  have : ¬ (s.i.toNat + bs.length ≤ memSize) := by omega
  simp [storeAtIndex, State.indexAddr, writeBlock_eq, this, hb, raiseMemoryFault, State.instrAddr]

theorem execLoadRegs_loads {s : State} {x : Nibble} (h : s.i.toNat + x.toNat + 1 ≤ memSize) :
    execLoadRegs x s = .next { s with
      v := setRegBlock s.v 0 ((List.range (x.toNat + 1)).map fun j => s.readByte (s.i.toNat + j)) } := by
  have : s.i.toNat + (x.toNat + 1) ≤ memSize := by omega
  simp [execLoadRegs, State.indexAddr, readBlock_eq, this, State.readByte]

theorem execLoadRegs_faults {s : State} {x : Nibble} (h : memSize < s.i.toNat + x.toNat + 1) :
    execLoadRegs x s = .fault (.memoryOutOfBounds (s.pc - 2#16) (max s.i.toNat memSize)) := by
  have : ¬ s.i.toNat + (x.toNat + 1) ≤ memSize := by omega
  simp [execLoadRegs, State.indexAddr, readBlock_eq, this, raiseMemoryFault, State.instrAddr]

/-- Register `r` after a block load (R241). -/
theorem reg_loadBlock (s : State) (x r : Nibble) :
    (State.reg { s with
      v := setRegBlock s.v 0 ((List.range (x.toNat + 1)).map fun j => s.readByte (s.i.toNat + j)) }
      r) =
      if r.toNat ≤ x.toNat then s.readByte (s.i.toNat + r.toNat) else s.reg r := by
  simp only [State.reg]
  rw [setRegBlock_get _ _ _ _ r.isLt]
  by_cases h : r.toNat ≤ x.toNat
  · simp [h, Nat.lt_succ_of_le h]
  · have : ¬ r.toNat < x.toNat + 1 := by omega
    simp [h, this]

/-! ## DRW -/

/-- The sprite's bytes: the `n` bytes from `I` on (R262). -/
def State.spriteRows (s : State) (n : Nibble) : List Byte :=
  (List.range n.toNat).map fun r => s.readByte (s.i.toNat + r)

theorem execDrw_draws {s : State} {x y n : Nibble}
    (h : n = 0#4 ∨ s.i.toNat + n.toNat ≤ memSize) :
    execDrw x y n s = .next (drawSprite x y (s.spriteRows n) s) := by
  have h' : n.toNat = 0 ∨ s.i.toNat + n.toNat ≤ memSize := by
    rcases h with h | h
    · left; simp [h]
    · exact .inr h
  simp only [execDrw, State.indexAddr, readBlock_eq, if_pos h', State.spriteRows, State.readByte]

theorem execDrw_faults {s : State} {x y n : Nibble} (hn : n ≠ 0#4)
    (h : memSize < s.i.toNat + n.toNat) :
    execDrw x y n s = .fault (.memoryOutOfBounds (s.pc - 2#16) (max s.i.toNat memSize)) := by
  have h' : ¬ (n.toNat = 0 ∨ s.i.toNat + n.toNat ≤ memSize) := by
    rintro (h0 | h0)
    · exact hn (BitVec.eq_of_toNat_eq (by simpa using h0))
    · omega
  simp only [execDrw, State.indexAddr, readBlock_eq, if_neg h', raiseMemoryFault, State.instrAddr]

/-- DRW changes the framebuffer and VF only (R262). -/
theorem drawSprite_eq (x y : Nibble) (rows : List Byte) (s : State) :
    drawSprite x y rows s =
      { s with fb := (drawSprite x y rows s).fb, v := (drawSprite x y rows s).v } := rfl

theorem fb_drawSprite (x y : Nibble) (rows : List Byte) (s : State) :
    (drawSprite x y rows s).fb =
      (drawRows (s.reg x).toNat (s.reg y).toNat rows (s.fb, false)).1 := rfl

theorem reg_drawSprite (x y : Nibble) (rows : List Byte) (s : State) (r : Nibble) :
    (drawSprite x y rows s).reg r =
      if r = vf then
        flagByte (drawRows (s.reg x).toNat (s.reg y).toNat rows (s.fb, false)).2
      else s.reg r := by
  simp only [drawSprite, State.reg_setReg]
  rfl

/-! ## Key skips -/

theorem keyOfByte_eq_some {b : Byte} (h : b.toNat < 16) :
    keyOfByte b = some (BitVec.ofNat 4 b.toNat) := by simp [keyOfByte, h]

theorem keyOfByte_eq_none {b : Byte} (h : 16 ≤ b.toNat) : keyOfByte b = none := by
  have : ¬ b.toNat < 16 := by omega
  simp [keyOfByte, this]

theorem skipOnKey_skips {s : State} {x : Nibble} {want : Bool} (h : (s.reg x).toNat < 16) :
    skipOnKey x want s =
      .next (s.skipIf (s.isPressed (BitVec.ofNat 4 (s.reg x).toNat) == want)) := by
  simp only [skipOnKey, keyOfByte_eq_some h]

theorem skipOnKey_faults {s : State} {x : Nibble} {want : Bool} (h : 16 ≤ (s.reg x).toNat) :
    skipOnKey x want s = .fault (.keyIndexOutOfRange (s.pc - 2#16) (s.reg x)) := by
  simp only [skipOnKey, keyOfByte_eq_none h, raiseKeyFault, State.instrAddr]

/-! ## The step -/

theorem step_marked {s : State} {f : Fault} (h : s.faultMark = some f) : step s = .fault f := by
  simp [step, h]

theorem step_fetchFault {s : State} (hm : s.faultMark = none) (h : memSize ≤ s.pc.toNat + 1) :
    step s = .fault (.fetchOutOfBounds s.pc) := by
  simp [step, fetch, hm, h]

theorem step_exec {s : State} (hm : s.faultMark = none) (h : s.pc.toNat + 1 < memSize) :
    step s = exec (decode (wordOfBytes (s.readByte s.pc.toNat) (s.readByte (s.pc.toNat + 1))))
      s.beginStep := by
  have : ¬ memSize ≤ s.pc.toNat + 1 := by omega
  simp only [step, fetch, hm, if_neg this]
  rfl

/-- Everything a step that goes on can be: the mark is clear, the word is inside memory, and the
answer is that of the decoded instruction. -/
theorem step_next {s t : State} (h : step s = .next t) :
    s.faultMark = none ∧ s.pc.toNat + 1 < memSize ∧
      exec (decode (wordOfBytes (s.readByte s.pc.toNat) (s.readByte (s.pc.toNat + 1))))
        s.beginStep = .next t := by
  cases hm : s.faultMark with
  | some f => rw [step_marked hm] at h; cases h
  | none =>
    by_cases hp : memSize ≤ s.pc.toNat + 1
    · rw [step_fetchFault hm hp] at h; cases h
    · exact ⟨rfl, by omega, by rw [← step_exec hm (by omega)]; exact h⟩

end Sys2Proof.Machine
end

