-- ==== Sys2Proof/Laws/PerInstr.lean ====
section
/-! SUPPORT. Per instruction: the class of the encoded word is the class the opcode table gives the
instruction (spec/30_encoding.md R104). -/

namespace Sys2Proof.Laws.EncodedClass

/-- The class nibble of each row of the opcode table (R104). -/
def tableClass : Instr → Nibble
  | .cls => 0x0#4
  | .ret => 0x0#4
  | .jp _ => 0x1#4
  | .call _ => 0x2#4
  | .seImm _ _ => 0x3#4
  | .sneImm _ _ => 0x4#4
  | .seReg _ _ => 0x5#4
  | .ldImm _ _ => 0x6#4
  | .addImm _ _ => 0x7#4
  | .ldReg _ _ => 0x8#4
  | .orReg _ _ => 0x8#4
  | .andReg _ _ => 0x8#4
  | .xorReg _ _ => 0x8#4
  | .addReg _ _ => 0x8#4
  | .subReg _ _ => 0x8#4
  | .shr _ _ => 0x8#4
  | .subnReg _ _ => 0x8#4
  | .shl _ _ => 0x8#4
  | .sneReg _ _ => 0x9#4
  | .ldI _ => 0xA#4
  | .jpV0 _ => 0xB#4
  | .rnd _ _ => 0xC#4
  | .drw _ _ _ => 0xD#4
  | .skp _ => 0xE#4
  | .sknp _ => 0xE#4
  | .ldFromDt _ => 0xF#4
  | .ldKey _ => 0xF#4
  | .ldDt _ => 0xF#4
  | .ldSt _ => 0xF#4
  | .addI _ => 0xF#4
  | .ldF _ => 0xF#4
  | .ldB _ => 0xF#4
  | .storeRegs _ => 0xF#4
  | .loadRegs _ => 0xF#4
  | .nopClass0 _ => 0x0#4
  | .nopClass5 _ _ _ => 0x5#4
  | .nop8xy8 _ _ => 0x8#4
  | .nop8xy9 _ _ => 0x8#4
  | .nop8xyA _ _ => 0x8#4
  | .nop8xyB _ _ => 0x8#4
  | .nop8xyC _ _ => 0x8#4
  | .nop8xyD _ _ => 0x8#4
  | .nop8xyF _ _ => 0x8#4
  | .nopClass9 _ _ _ => 0x9#4
  | .nopClassE _ _ => 0xE#4
  | .nopClassF _ _ => 0xF#4

/-- The class of an encoded instruction is its row's. -/
def Statement (i : Instr) : Prop := classOf (encode i) = tableClass i

theorem cls : Statement (.cls) := by
  unfold Statement; decide
theorem ret : Statement (.ret) := by
  unfold Statement; decide
theorem jp (nnn : Addr12) : Statement (.jp nnn) :=
  classOf_formatA _ _
theorem call (nnn : Addr12) : Statement (.call nnn) :=
  classOf_formatA _ _
theorem seImm (x : Nibble) (kk : Byte) : Statement (.seImm x kk) :=
  classOf_formatXK _ _ _
theorem sneImm (x : Nibble) (kk : Byte) : Statement (.sneImm x kk) :=
  classOf_formatXK _ _ _
theorem seReg (x y : Nibble) : Statement (.seReg x y) :=
  classOf_formatXYN _ _ _ _
theorem ldImm (x : Nibble) (kk : Byte) : Statement (.ldImm x kk) :=
  classOf_formatXK _ _ _
theorem addImm (x : Nibble) (kk : Byte) : Statement (.addImm x kk) :=
  classOf_formatXK _ _ _
theorem ldReg (x y : Nibble) : Statement (.ldReg x y) :=
  classOf_formatXYN _ _ _ _
theorem orReg (x y : Nibble) : Statement (.orReg x y) :=
  classOf_formatXYN _ _ _ _
theorem andReg (x y : Nibble) : Statement (.andReg x y) :=
  classOf_formatXYN _ _ _ _
theorem xorReg (x y : Nibble) : Statement (.xorReg x y) :=
  classOf_formatXYN _ _ _ _
theorem addReg (x y : Nibble) : Statement (.addReg x y) :=
  classOf_formatXYN _ _ _ _
theorem subReg (x y : Nibble) : Statement (.subReg x y) :=
  classOf_formatXYN _ _ _ _
theorem shr (x y : Nibble) : Statement (.shr x y) :=
  classOf_formatXYN _ _ _ _
theorem subnReg (x y : Nibble) : Statement (.subnReg x y) :=
  classOf_formatXYN _ _ _ _
theorem shl (x y : Nibble) : Statement (.shl x y) :=
  classOf_formatXYN _ _ _ _
theorem sneReg (x y : Nibble) : Statement (.sneReg x y) :=
  classOf_formatXYN _ _ _ _
theorem ldI (nnn : Addr12) : Statement (.ldI nnn) :=
  classOf_formatA _ _
theorem jpV0 (nnn : Addr12) : Statement (.jpV0 nnn) :=
  classOf_formatA _ _
theorem rnd (x : Nibble) (kk : Byte) : Statement (.rnd x kk) :=
  classOf_formatXK _ _ _
theorem drw (x y n : Nibble) : Statement (.drw x y n) :=
  classOf_formatXYN _ _ _ _
theorem skp (x : Nibble) : Statement (.skp x) :=
  classOf_formatXK _ _ _
theorem sknp (x : Nibble) : Statement (.sknp x) :=
  classOf_formatXK _ _ _
theorem ldFromDt (x : Nibble) : Statement (.ldFromDt x) :=
  classOf_formatXK _ _ _
theorem ldKey (x : Nibble) : Statement (.ldKey x) :=
  classOf_formatXK _ _ _
theorem ldDt (x : Nibble) : Statement (.ldDt x) :=
  classOf_formatXK _ _ _
theorem ldSt (x : Nibble) : Statement (.ldSt x) :=
  classOf_formatXK _ _ _
theorem addI (x : Nibble) : Statement (.addI x) :=
  classOf_formatXK _ _ _
theorem ldF (x : Nibble) : Statement (.ldF x) :=
  classOf_formatXK _ _ _
theorem ldB (x : Nibble) : Statement (.ldB x) :=
  classOf_formatXK _ _ _
theorem storeRegs (x : Nibble) : Statement (.storeRegs x) :=
  classOf_formatXK _ _ _
theorem loadRegs (x : Nibble) : Statement (.loadRegs x) :=
  classOf_formatXK _ _ _
theorem nopClass0 (nnn : Addr12) : Statement (.nopClass0 nnn) :=
  classOf_formatA _ _
theorem nopClass5 (x y n : Nibble) : Statement (.nopClass5 x y n) :=
  classOf_formatXYN _ _ _ _
theorem nop8xy8 (x y : Nibble) : Statement (.nop8xy8 x y) :=
  classOf_formatXYN _ _ _ _
theorem nop8xy9 (x y : Nibble) : Statement (.nop8xy9 x y) :=
  classOf_formatXYN _ _ _ _
theorem nop8xyA (x y : Nibble) : Statement (.nop8xyA x y) :=
  classOf_formatXYN _ _ _ _
theorem nop8xyB (x y : Nibble) : Statement (.nop8xyB x y) :=
  classOf_formatXYN _ _ _ _
theorem nop8xyC (x y : Nibble) : Statement (.nop8xyC x y) :=
  classOf_formatXYN _ _ _ _
theorem nop8xyD (x y : Nibble) : Statement (.nop8xyD x y) :=
  classOf_formatXYN _ _ _ _
theorem nop8xyF (x y : Nibble) : Statement (.nop8xyF x y) :=
  classOf_formatXYN _ _ _ _
theorem nopClass9 (x y n : Nibble) : Statement (.nopClass9 x y n) :=
  classOf_formatXYN _ _ _ _
theorem nopClassE (x : Nibble) (kk : Byte) : Statement (.nopClassE x kk) :=
  classOf_formatXK _ _ _
theorem nopClassF (x : Nibble) (kk : Byte) : Statement (.nopClassF x kk) :=
  classOf_formatXK _ _ _

end Sys2Proof.Laws.EncodedClass
end

