-- ==== Sys2Proof/Tests/Slice0.lean ====
section
/-! SUPPORT. The model's own tests: well-formedness, decoding of words written out from the spec,
one-step vectors from spec/95_test_vectors.md, and the witnesses of the statements' hypotheses. -/

namespace Sys2Proof.Tests

open Sys2Proof.Machine

/-! ## Helpers -/

/-- Whether a step goes on to a state with the property. -/
def after (r : Result) (p : State → Bool) : Bool :=
  match r with
  | .next t => p t
  | .fault _ => false
  | .refused _ => false

theorem next_of_after {r : Result} {p : State → Bool} (h : after r p = true) :
    ∃ t, r = .next t ∧ p t = true := by
  cases r with
  | next t => exact ⟨t, rfl, h⟩
  | fault f => cases h
  | refused q => cases h

/-- Whether a step ends in the fault. -/
def faults (r : Result) (f : Fault) : Bool :=
  match r with
  | .next _ => false
  | .fault g => g == f
  | .refused _ => false

theorem fault_of_faults {r : Result} {f : Fault} (h : faults r f = true) : r = .fault f := by
  cases r with
  | next t => cases h
  | fault g => rw [eq_of_beq (show (g == f) = true from h)]
  | refused q => cases h

/-- One step of a word placed where the step fetches. -/
def run (w : Nat) (s : State) : Result := step (s.withFetchWord 16 w)

/-- The state after reset with two registers set. -/
def regs (x : Nibble) (a : Byte) (y : Nibble) (b : Byte) : State :=
  (State.reset.setReg x a).setReg y b

/-- The state after reset with `I` set and one register set. -/
def indexed (i : Word) (x : Nibble) (a : Byte) : State := { State.reset.setReg x a with i := i }

/-- The state with some bytes of memory set. -/
def withBytes (s : State) (a : Nat) (bs : List Byte) : State :=
  { s with mem := installBytes s.mem a bs }

/-- The spec's other parameters. -/
def otherParams (s : State) : State :=
  { s with cfg := { s.cfg with vfOrder := .resultLast, bcdMode := .decimal } }

/-! ## Well-formedness: each check refuses an ill-formed term -/

theorem test_illformed_class0_cls : (Instr.nopClass0 0x0E0#12).wellFormed = false := by decide
theorem test_illformed_class0_ret : (Instr.nopClass0 0x0EE#12).wellFormed = false := by decide
theorem test_illformed_class5 : (Instr.nopClass5 1#4 2#4 0#4).wellFormed = false := by decide
theorem test_illformed_class9 : (Instr.nopClass9 1#4 2#4 0#4).wellFormed = false := by decide
theorem test_illformed_classE :
    ([0x9E#8, 0xA1#8].any fun kk => (Instr.nopClassE 1#4 kk).wellFormed) = false := by decide
theorem test_illformed_classF :
    ([0x07#8, 0x0A#8, 0x15#8, 0x18#8, 0x1E#8, 0x29#8, 0x33#8, 0x55#8, 0x65#8].any fun kk =>
      (Instr.nopClassF 1#4 kk).wellFormed) = false := by decide

/-! ## Decoding: every constructor by a word written out bit by bit from R102 and R104 -/

theorem test_decode_class0 :
    decode 0b0000000011100000#16 = .cls ∧ decode 0b0000000011101110#16 = .ret ∧
    decode 0b0000101011101110#16 = .nopClass0 0xAEE#12 := by decide
theorem test_decode_jumps :
    decode 0b0001001000110100#16 = .jp 0x234#12 ∧ decode 0b0010001100000000#16 = .call 0x300#12 ∧
    decode 0b1011001100000000#16 = .jpV0 0x300#12 := by decide
theorem test_decode_skips :
    decode 0b0011001100000111#16 = .seImm 3#4 0x07#8 ∧
    decode 0b0100001100000111#16 = .sneImm 3#4 0x07#8 ∧
    decode 0b0101000100100000#16 = .seReg 1#4 2#4 ∧
    decode 0b1001000100100000#16 = .sneReg 1#4 2#4 := by decide
theorem test_decode_immediates :
    decode 0b0110101000000010#16 = .ldImm 0xA#4 0x02#8 ∧
    decode 0b0111101000000101#16 = .addImm 0xA#4 0x05#8 ∧
    decode 0b1100001100001111#16 = .rnd 3#4 0x0F#8 := by decide
theorem test_decode_alu_low :
    decode 0b1000000100100000#16 = .ldReg 1#4 2#4 ∧ decode 0b1000000100100001#16 = .orReg 1#4 2#4 ∧
    decode 0b1000000100100010#16 = .andReg 1#4 2#4 ∧
    decode 0b1000000100100011#16 = .xorReg 1#4 2#4 ∧
    decode 0b1000000100100100#16 = .addReg 1#4 2#4 := by decide
theorem test_decode_alu_high :
    decode 0b1000000100100101#16 = .subReg 1#4 2#4 ∧ decode 0b1000000100100110#16 = .shr 1#4 2#4 ∧
    decode 0b1000000100100111#16 = .subnReg 1#4 2#4 ∧
    decode 0b1000000100101110#16 = .shl 1#4 2#4 := by decide
theorem test_decode_alu_noops :
    decode 0b1000000100101000#16 = .nop8xy8 1#4 2#4 ∧
    decode 0b1000000100101001#16 = .nop8xy9 1#4 2#4 ∧
    decode 0b1000000100101010#16 = .nop8xyA 1#4 2#4 ∧
    decode 0b1000000100101011#16 = .nop8xyB 1#4 2#4 ∧
    decode 0b1000000100101100#16 = .nop8xyC 1#4 2#4 ∧
    decode 0b1000000100101101#16 = .nop8xyD 1#4 2#4 ∧
    decode 0b1000000100101111#16 = .nop8xyF 1#4 2#4 := by decide
theorem test_decode_index :
    decode 0b1010001011110000#16 = .ldI 0x2F0#12 ∧ decode 0b1111010100011110#16 = .addI 5#4 ∧
    decode 0b1111001000101001#16 = .ldF 2#4 ∧ decode 0b1111010000110011#16 = .ldB 4#4 ∧
    decode 0b1111001001010101#16 = .storeRegs 2#4 ∧
    decode 0b1111001001100101#16 = .loadRegs 2#4 := by decide
theorem test_decode_draw : decode 0b1101000100100101#16 = .drw 1#4 2#4 5#4 := by decide
theorem test_decode_input :
    decode 0b1110000110011110#16 = .skp 1#4 ∧ decode 0b1110000110100001#16 = .sknp 1#4 ∧
    decode 0b1111001100001010#16 = .ldKey 3#4 := by decide
theorem test_decode_timers :
    decode 0b1111010100000111#16 = .ldFromDt 5#4 ∧ decode 0b1111010100010101#16 = .ldDt 5#4 ∧
    decode 0b1111011000011000#16 = .ldSt 6#4 := by decide
theorem test_decode_other_noops :
    decode 0b0101000100100001#16 = .nopClass5 1#4 2#4 1#4 ∧
    decode 0b1001000100101111#16 = .nopClass9 1#4 2#4 0xF#4 ∧
    decode 0b1110000110011111#16 = .nopClassE 1#4 0x9F#8 ∧
    decode 0b1111000001110101#16 = .nopClassF 0#4 0x75#8 := by decide
/-- S1: the bytes `8A B4`, high byte first. -/
theorem test_decode_bytes :
    decodeBytes [0x8A#8, 0xB4#8, 0x12#8] = .ok (.addReg 0xA#4 0xB#4, [0x12#8]) ∧
    decodeBytes [0x8A#8] = .error .truncated ∧
    decodeTableWord 16 0x8AB4 = some (.addReg 0xA#4 0xB#4) := by decide

/-! ## One-step vectors (spec/95_test_vectors.md, named in each test) -/

theorem test_DEC9_odd_pc :
    after (run 0x6199 { State.reset with pc := 0x301#16 })
      (fun t => t.reg 1#4 == 0x99#8 && t.pc == 0x303#16) = true := by decide
theorem test_DEC3_fetch_fault :
    faults (step { State.reset with pc := 0x0FFF#16 }) (.fetchOutOfBounds 0x0FFF#16) = true := by decide
theorem test_CF1_jp : after (run 0x1234 State.reset) (fun t => t.pc == 0x234#16) = true := by decide
theorem test_CF4_call :
    after (run 0x2300 State.reset) (fun t =>
      t.pc == 0x300#16 && t.sp == 1 && t.stack[0] == 0x202#16 && t.outcome == .ok) = true := by decide
theorem test_CF5_call_full :
    after (run 0x2300 { State.reset with sp := 16 }) (fun t =>
      t.pc == 0x202#16 && t.sp == 16 && t.stack == State.reset.stack &&
      t.outcome == .callStackOverflow) = true := by decide
theorem test_CF6_ret :
    after (run 0x00EE { State.reset with sp := 2, stack := State.reset.stack.set 1 0x456#16 })
      (fun t => t.pc == 0x456#16 && t.sp == 1 && t.outcome == .ok) = true := by decide
theorem test_CF7_ret_empty :
    after (run 0x00EE State.reset)
      (fun t => t.pc == 0x202#16 && t.sp == 0 && t.outcome == .emptyCallStack) = true := by decide
theorem test_CF8_CF9_se_imm :
    after (run 0x3307 (regs 3 7 0 0)) (fun t => t.pc == 0x204#16) = true ∧
    after (run 0x3307 (regs 3 8 0 0)) (fun t => t.pc == 0x202#16) = true := by decide
theorem test_CF10_CF11_sne_imm :
    after (run 0x4307 (regs 3 8 0 0)) (fun t => t.pc == 0x204#16) = true ∧
    after (run 0x4307 (regs 3 7 0 0)) (fun t => t.pc == 0x202#16) = true := by decide
theorem test_CF12_CF13_se_reg :
    after (run 0x5120 (regs 1 9 2 9)) (fun t => t.pc == 0x204#16) = true ∧
    after (run 0x5120 (regs 1 9 2 8)) (fun t => t.pc == 0x202#16) = true := by decide
theorem test_CF15_CF16_sne_reg :
    after (run 0x9120 (regs 1 9 2 8)) (fun t => t.pc == 0x204#16) = true ∧
    after (run 0x9110 (regs 1 9 2 8)) (fun t => t.pc == 0x202#16) = true := by decide
theorem test_CF17_noop_class5 :
    after (run 0x5121 (regs 1 9 2 9)) (fun t => t.pc == 0x202#16) = true := by decide
theorem test_CF19_jp_v0 :
    after (run 0xBFFF (regs 0 0xFF 1 0)) (fun t => t.pc == 0x10FE#16) = true := by decide
theorem test_DEC4_noop_class0 :
    after (run 0x0AEE State.reset) (fun t => t.pc == 0x202#16 && t.sp == 0) = true := by decide
theorem test_DEC5_noop_class9 :
    after (run 0x912F (regs 1 9 2 8)) (fun t => t.pc == 0x202#16) = true := by decide
theorem test_DEC6_noop_alu :
    ([0x8128, 0x8129, 0x812A, 0x812B, 0x812C, 0x812D, 0x812F].all fun w =>
      after (run w (regs 1 9 2 8)) fun t =>
        t.pc == 0x202#16 && t.v == (regs 1 9 2 8).v) = true := by decide
theorem test_DEC7_noop_classE :
    after (run 0xE19F (regs 1 0xFF 0 0)) (fun t => t.pc == 0x202#16) = true := by decide
theorem test_DEC8_noop_classF :
    after (run 0xF075 { State.reset with i := 0xFFFF#16 }) (fun t => t.pc == 0x202#16) = true := by decide
theorem test_AL1_ld_imm :
    after (run 0x6A02 State.reset) (fun t => t.reg 0xA == 2#8) = true := by decide
theorem test_AL2_AL3_add_imm :
    after (run 0x710A (regs 1 0xFA 15 7)) (fun t => t.reg 1 == 4#8 && t.reg 15 == 7#8) = true ∧
    after (run 0x7F01 (regs 15 0xFF 0 0)) (fun t => t.reg 15 == 0#8) = true := by decide
theorem test_AL4_ld_reg :
    after (run 0x8120 (regs 1 1 2 0x33)) (fun t => t.reg 1 == 0x33#8 && t.reg 2 == 0x33#8) = true := by decide
theorem test_AL5_or :
    after (run 0x8121 ((regs 1 0xF0 2 0x0F).setReg 15 7))
      (fun t => t.reg 1 == 0xFF#8 && t.reg 15 == 7#8) = true := by decide
theorem test_AL6_and :
    after (run 0x8122 ((regs 1 0x3C 2 0x0F).setReg 15 7))
      (fun t => t.reg 1 == 0x0C#8 && t.reg 15 == 7#8) = true := by decide
theorem test_AL7_xor :
    after (run 0x8123 ((regs 1 0xFF 2 0x0F).setReg 15 7))
      (fun t => t.reg 1 == 0xF0#8 && t.reg 15 == 7#8) = true := by decide
theorem test_AL9_AL11_add :
    after (run 0x8124 (regs 1 250 2 10)) (fun t => t.reg 1 == 4#8 && t.reg 15 == 1#8) = true ∧
    after (run 0x8124 (regs 1 255 2 0)) (fun t => t.reg 1 == 255#8 && t.reg 15 == 0#8) = true := by decide
theorem test_AL14_add_into_vf :
    after (run 0x8F14 (regs 15 250 1 10)) (fun t => t.reg 15 == 1#8) = true ∧
    after (run 0x8F14 (otherParams (regs 15 250 1 10))) (fun t => t.reg 15 == 4#8) = true := by decide
theorem test_AL15_AL16_sub :
    after (run 0x8125 (regs 1 7 2 7)) (fun t => t.reg 1 == 0#8 && t.reg 15 == 1#8) = true ∧
    after (run 0x8125 (regs 1 0 2 1)) (fun t => t.reg 1 == 255#8 && t.reg 15 == 0#8) = true := by decide
theorem test_AL17_sub_into_vf :
    after (run 0x8F15 (regs 15 5 1 10)) (fun t => t.reg 15 == 0#8) = true ∧
    after (run 0x8F15 (otherParams (regs 15 5 1 10))) (fun t => t.reg 15 == 251#8) = true := by decide
theorem test_AL19_AL21_shr :
    after (run 0x8106 (regs 1 0xFF 0 0)) (fun t => t.reg 1 == 127#8 && t.reg 15 == 1#8) = true ∧
    after (run 0x81F6 (regs 1 4 15 1)) (fun t => t.reg 1 == 2#8 && t.reg 15 == 0#8) = true := by decide
theorem test_AL23_AL24_subn :
    after (run 0x8127 (regs 1 10 2 5)) (fun t => t.reg 1 == 251#8 && t.reg 15 == 0#8) = true ∧
    after (run 0x8127 (regs 1 5 2 10)) (fun t => t.reg 1 == 5#8 && t.reg 15 == 1#8) = true := by decide
theorem test_AL26_AL28_shl :
    after (run 0x810E (regs 1 0x81 0 0)) (fun t => t.reg 1 == 2#8 && t.reg 15 == 1#8) = true ∧
    after (run 0x810E (regs 1 0x7F 0 0)) (fun t => t.reg 1 == 254#8 && t.reg 15 == 0#8) = true := by decide
theorem test_AL29_shl_vf :
    after (run 0x8F0E (regs 15 0x40 0 0)) (fun t => t.reg 15 == 0#8) = true ∧
    after (run 0x8F0E (otherParams (regs 15 0x40 0 0))) (fun t => t.reg 15 == 128#8) = true := by decide
/-- AL31: any draw masked by 0 is 0, and the draw takes one byte of the stream. -/
theorem test_AL31_rnd :
    ∃ t, run 0xC100 State.reset = .next t ∧ t.reg 1#4 = 0#8 ∧ t.rndIndex = 1 := by
  refine ⟨_, rfl, ?_, rfl⟩
  change Config.rnd 0 &&& 0x00#8 = 0#8
  simp
theorem test_IM1_ld_i : after (run 0xA2F0 State.reset) (fun t => t.i == 0x2F0#16) = true := by decide
theorem test_IM3_IM4_add_i :
    after (run 0xF51E (indexed 0xFFFF#16 5 1)) (fun t => t.i == 0#16) = true ∧
    after (run 0xF51E (indexed 0x0FFF#16 5 1)) (fun t => t.i == 0x1000#16) = true := by decide
theorem test_IM6_ld_f :
    after (run 0xF229 (regs 2 0x1A 0 0)) (fun t => t.i == 0x032#16) = true := by decide
theorem test_IM8_IM9_bcd :
    after (run 0xF433 (indexed 0x300#16 4 234)) (fun t =>
      t.readByte 0x300 == 2#8 && t.readByte 0x301 == 0#8 && t.readByte 0x302 == 4#8) = true ∧
    after (run 0xF433 (otherParams (indexed 0x300#16 4 234))) (fun t =>
      t.readByte 0x300 == 2#8 && t.readByte 0x301 == 3#8 && t.readByte 0x302 == 4#8) = true := by decide
theorem test_IM11_bcd_fault :
    faults (run 0xF433 (indexed 0xFFE#16 4 234)) (.memoryOutOfBounds 0x200#16 0x1000) = true := by decide
theorem test_IM12_store :
    after (run 0xF255 ((indexed 0x300#16 0 1).setReg 1 2 |>.setReg 2 3)) (fun t =>
      t.readByte 0x300 == 1#8 && t.readByte 0x301 == 2#8 && t.readByte 0x302 == 3#8 &&
      t.readByte 0x303 == 0#8 && t.i == 0x300#16) = true := by decide
theorem test_IM14_store_fault :
    faults (run 0xFF55 (indexed 0xFF1#16 0 1)) (.memoryOutOfBounds 0x200#16 0x1000) = true := by decide
theorem test_IM15_load :
    after (run 0xF265 (withBytes (indexed 0x300#16 3 5) 0x300 [9, 8, 7, 6])) (fun t =>
      t.reg 0 == 9#8 && t.reg 1 == 8#8 && t.reg 2 == 7#8 && t.reg 3 == 5#8 &&
      t.i == 0x300#16) = true := by decide
theorem test_IM16_load_vf :
    after (run 0xFF65 (withBytes (indexed 0x300#16 3 5) 0x30F [0x42])) (fun t =>
      t.reg 15 == 0x42#8) = true := by decide
theorem test_DS1_cls :
    after (run 0x00E0 { State.reset with fb := State.reset.fb.setPixel 10 10 true })
      (fun t => t.fb == Framebuffer.clear) = true := by decide
theorem test_DS2_drw :
    after (run 0xD015 State.reset) (fun t =>
      t.fb.pixel 0 0 && t.fb.pixel 3 0 && !t.fb.pixel 4 0 && t.fb.pixel 0 1 && !t.fb.pixel 1 1 &&
      t.fb.pixel 3 4 && !t.fb.pixel 0 5 && t.reg 15 == 0#8) = true := by decide
theorem test_DS8_drw_from_vf :
    after (run 0xDF11 (withBytes { regs 15 5 1 2 with i := 0x300#16 } 0x300 [0x80])) (fun t =>
      t.fb == State.reset.fb.setPixel 5 2 true && t.reg 15 == 0#8) = true := by decide
theorem test_DS11_drw_fault :
    faults (run 0xD012 (indexed 0xFFF#16 0 0)) (.memoryOutOfBounds 0x200#16 0x1000) = true := by decide
theorem test_IT1_IT2_skp :
    after (run 0xE19E ((regs 1 5 0 0).setKey 5 true)) (fun t => t.pc == 0x204#16) = true ∧
    after (run 0xE19E (regs 1 5 0 0)) (fun t => t.pc == 0x202#16) = true := by decide
theorem test_IT4_skp_fault :
    faults (run 0xE19E (regs 1 16 0 0)) (.keyIndexOutOfRange 0x200#16 16#8) = true := by decide
theorem test_IT3_sknp :
    after (run 0xE1A1 (regs 1 5 0 0)) (fun t => t.pc == 0x204#16) = true ∧
    after (run 0xE1A1 ((regs 1 5 0 0).setKey 5 true)) (fun t => t.pc == 0x202#16) = true := by decide
theorem test_IT5_sknp_fault :
    faults (run 0xE1A1 (regs 1 0xFF 0 0)) (.keyIndexOutOfRange 0x200#16 0xFF#8) = true := by decide
theorem test_IT10_ld_key_waits :
    after (run 0xF30A { State.reset with latch := some 6#4 }) (fun t =>
      t.pc == 0x200#16 && t.pending && t.latch == some 6#4) = true := by decide
theorem test_IT11_ld_key_delivers :
    after (run 0xFF0A { State.reset with latch := some 6#4, pending := true }) (fun t =>
      t.reg 15 == 6#8 && t.pc == 0x202#16 && t.latch == none && !t.pending) = true := by decide
theorem test_IT12_ld_from_dt :
    after (run 0xF507 { State.reset with dt := 0x3C#8 }) (fun t => t.reg 5 == 0x3C#8) = true := by decide
theorem test_IT13_ld_dt :
    after (run 0xF515 (regs 5 0x3C 0 0)) (fun t => t.dt == 0x3C#8 && t.st == 0#8) = true := by decide
theorem test_IT14_ld_st :
    after (run 0xF618 (regs 6 2 0 0)) (fun t => t.st == 2#8 && t.dt == 0#8 && t.soundActive) = true := by decide

/-! ## Ports -/

theorem test_IT7_set_key :
    let s := ((State.reset.setKeyPort 2 true).setKeyPort 2 false).setKeyPort 9 true
    s.latch = some 2#4 ∧ s.isPressed 2#4 = false ∧ s.isPressed 9#4 = true := by decide
theorem test_IT15_tick :
    let s := { State.reset with dt := 2#8, st := 1#8 }
    s.tickPort.dt = 1#8 ∧ s.tickPort.st = 0#8 ∧ s.tickPort.tickPort.tickPort.dt = 0#8 ∧
    s.tickPort.soundActive = false := by decide
theorem test_RL1_reset :
    let s := { State.reset with sp := 5, i := 0x123#16, pc := 0x456#16, dt := 4#8, pending := true }
    s.resetPort.sp = 0 ∧ s.resetPort.i = 0#16 ∧ s.resetPort.pc = 0x200#16 ∧
    s.resetPort.dt = 4#8 ∧ s.resetPort.pending = true := by decide
theorem test_font_glyphs :
    State.reset.readByte 0x000 = 0xF0#8 ∧ State.reset.readByte 0x037 = 0xE0#8 ∧
    State.reset.readByte 0x04F = 0x80#8 ∧ State.reset.readByte 0x050 = 0x00#8 := by decide

/-! ## Witnesses: a state and operands that meet the hypotheses of each statement -/

theorem witness_DecodeOfEncode : (Instr.nopClassE 0xF#4 0x9F#8).wellFormed = true := by decide

/-- A boundary word for each clause of the decode map. -/
theorem witness_DecodeFollowsTheMap :
    (0x00E0#16).toNat = 0x00E0 ∧ (0x00EE#16).toNat = 0x00EE ∧
    ([0x1FFF#16, 0x2FFF#16, 0xAFFF#16, 0xBFFF#16].map fun w => w.toNat) =
      [0x1000, 0x2000, 0xA000, 0xB000].map (fun c => c + (0xFFF#12).toNat) ∧
    ([0x3FFF#16, 0x4FFF#16, 0x6FFF#16, 0x7FFF#16, 0xCFFF#16].map fun w => w.toNat) =
      [0x3000, 0x4000, 0x6000, 0x7000, 0xC000].map
        (fun c => c + 0x100 * (0xF#4).toNat + (0xFF#8).toNat) ∧
    ([0x5FF0#16, 0x8FF0#16, 0x8FF1#16, 0x8FF2#16, 0x8FF3#16, 0x8FF4#16, 0x8FF5#16, 0x8FF6#16,
      0x8FF7#16, 0x8FFE#16, 0x9FF0#16].map fun w => w.toNat) =
      [0x5000, 0x8000, 0x8001, 0x8002, 0x8003, 0x8004, 0x8005, 0x8006, 0x8007, 0x800E, 0x9000].map
        (fun c => c + 0x100 * (0xF#4).toNat + 0x10 * (0xF#4).toNat) ∧
    (0xDFFF#16).toNat = 0xD000 + 0x100 * (0xF#4).toNat + 0x10 * (0xF#4).toNat + (0xF#4).toNat ∧
    ([0xEF9E#16, 0xEFA1#16, 0xFF07#16, 0xFF0A#16, 0xFF15#16, 0xFF18#16, 0xFF1E#16, 0xFF29#16,
      0xFF33#16, 0xFF55#16, 0xFF65#16].map fun w => w.toNat) =
      [0xE09E, 0xE0A1, 0xF007, 0xF00A, 0xF015, 0xF018, 0xF01E, 0xF029, 0xF033, 0xF055, 0xF065].map
        (fun c => c + 0x100 * (0xF#4).toNat) ∧
    (decode 0xFF65#16).isNop = false := by decide

theorem witness_NoopSpacesRunAsNoops :
    (State.reset.withFetchWord 16 0x8FFF).CanFetch ∧
    (State.reset.withFetchWord 16 0x8FFF).nextInstr.isNop = true :=
  ⟨⟨rfl, by decide⟩, by decide⟩

/-- At the last address a word can be fetched from. -/
theorem witness_StepRunsDecodedInstruction :
    let s := ({ State.reset with pc := 0x0FFE#16 } : State).withFetchWord 16 0x6A02
    s.CanFetch ∧ (Instr.ldImm 0xA#4 2#8).wellFormed = true ∧
    decodeBytes [s.readByte s.pc.toNat, s.readByte (s.pc.toNat + 1)] =
      .ok (.ldImm 0xA#4 2#8, []) :=
  ⟨⟨rfl, by decide⟩, by decide, by decide⟩

theorem witness_FetchBigEndianOrFaults :
    let s := ({ State.reset with pc := 0x0FFF#16 } : State)
    let t := ({ State.reset with pc := 0x0FFE#16 } : State)
    s.faultMark = none ∧ 0x1000 ≤ s.pc.toNat + 1 ∧ t.faultMark = none ∧
    t.pc.toNat + 1 < 0x1000 ∧
    (0#16).toNat = 256 * (t.readByte t.pc.toNat).toNat + (t.readByte (t.pc.toNat + 1)).toNat := by
  decide

theorem witness_FetchWordRunsNext :
    ({ State.reset with pc := 0x0FFE#16 } : State).CanFetch ∧
    ({ State.reset with pc := 0x0FFE#16 } : State).Inv := ⟨⟨rfl, by decide⟩, rfl⟩

/-- A clear mark, with each branch of R317: a fetch fault, a memory fault, a key fault, none. -/
theorem witness_StepFaultsExactlyAsListed :
    State.reset.faultMark = none ∧
    step { State.reset with pc := 0x0FFF#16 } = .fault (.fetchOutOfBounds 0x0FFF#16) ∧
    run 0xFF55 (indexed 0xFF1#16 0 1) = .fault (.memoryOutOfBounds 0x200#16 0x1000) ∧
    run 0xE19E (regs 1 16 0 0) = .fault (.keyIndexOutOfRange 0x200#16 16#8) ∧
    ∃ t, run 0xFF55 (indexed 0xFF0#16 0 1) = .next t :=
  ⟨rfl, fault_of_faults (by decide), fault_of_faults (by decide), fault_of_faults (by decide),
    (next_of_after (p := fun _ => true) (by decide)).imp fun _ h => h.1⟩

theorem witness_FaultMarkIsSticky :
    ({ State.reset with faultMark := some (.fetchOutOfBounds 0x0FFF#16) } : State).faultMark =
      some (.fetchOutOfBounds 0x0FFF#16) ∧
    step { State.reset with pc := 0x0FFF#16 } = .fault (.fetchOutOfBounds 0x0FFF#16) :=
  ⟨rfl, fault_of_faults (by decide)⟩

theorem witness_FailingStepChangesOnlyPc :
    ∃ t, run 0x00EE State.reset = .next t ∧ t.outcome ≠ .ok := by
  obtain ⟨t, h, p⟩ := next_of_after (r := run 0x00EE State.reset)
    (p := fun t => t.outcome != .ok) (by decide)
  exact ⟨t, h, by simpa using p⟩

/-- Each outcome of a step that goes on: an empty stack, a full one, and neither. -/
theorem witness_StepOutcomes :
    (∃ t, run 0x00EE State.reset = .next t) ∧
    (∃ t, run 0x2300 { State.reset with sp := 16 } = .next t) ∧
    (∃ t, run 0x2300 { State.reset with sp := 15 } = .next t) :=
  ⟨⟨_, rfl⟩, ⟨_, rfl⟩, ⟨_, rfl⟩⟩

theorem witness_PcAfterEachInstruction :
    ∃ t, run 0x5110 { State.reset with pc := 0x0FFC#16 } = .next t := ⟨_, rfl⟩

theorem witness_RegisterWriters :
    ∃ t, run 0x6A02 State.reset = .next t ∧ t.reg 0xA#4 ≠ State.reset.reg 0xA#4 :=
  ⟨_, rfl, by decide⟩

/-- A step that changes the stack, one that changes `I`, and one that draws. -/
theorem witness_EngineStateWriters :
    (∃ t, run 0x2300 State.reset = .next t ∧ t.sp ≠ State.reset.sp) ∧
    (∃ t, run 0xA2F0 State.reset = .next t ∧ t.i ≠ State.reset.i) ∧
    (∃ t, run 0xC1FF State.reset = .next t ∧ t.rndIndex ≠ State.reset.rndIndex) :=
  ⟨⟨_, rfl, by decide⟩, ⟨_, rfl, by decide⟩, ⟨_, rfl, by decide⟩⟩

/-- A step that changes a pixel, one that changes the request flag, and one for each timer. -/
theorem witness_DeviceStateWriters :
    (∃ t, run 0xD015 State.reset = .next t ∧ t.fb ≠ State.reset.fb) ∧
    (∃ t, run 0xF30A State.reset = .next t ∧ t.pending ≠ State.reset.pending) ∧
    (∃ t, run 0xF515 (regs 5 1 0 0) = .next t ∧ t.dt ≠ State.reset.dt) ∧
    (∃ t, run 0xF618 (regs 6 1 0 0) = .next t ∧ t.st ≠ State.reset.st) := by
  refine ⟨?_, ⟨_, rfl, by decide⟩, ⟨_, rfl, by decide⟩, ⟨_, rfl, by decide⟩⟩
  obtain ⟨t, h, p⟩ := next_of_after (r := run 0xD015 State.reset)
    (p := fun t => t.fb.pixel 0 0) (by decide)
  refine ⟨t, h, fun e => ?_⟩
  rw [e] at p
  exact absurd p (by decide)

/-- A byte changed by LD B and one changed by LD [I], at the end of memory. -/
theorem witness_MemoryWriters :
    (∃ t, run 0xF433 (indexed 0xFFD#16 4 1) = .next t ∧ t.readByte 0xFFF ≠ 0#8) ∧
    (∃ t, run 0xF055 (indexed 0xFFF#16 0 1) = .next t ∧ t.readByte 0xFFF ≠ 0#8) := by
  constructor
  · obtain ⟨t, h, p⟩ := next_of_after (r := run 0xF433 (indexed 0xFFD#16 4 1))
      (p := fun t => t.readByte 0xFFF != 0#8) (by decide)
    exact ⟨t, h, by simpa using p⟩
  · obtain ⟨t, h, p⟩ := next_of_after (r := run 0xF055 (indexed 0xFFF#16 0 1))
      (p := fun t => t.readByte 0xFFF != 0#8) (by decide)
    exact ⟨t, h, by simpa using p⟩

theorem witness_StepKeepsMemoryCanonical :
    ((indexed 0xFFF#16 0 1).withFetchWord 16 0xF055).Inv ∧
    ∃ t, run 0xF055 (indexed 0xFFF#16 0 1) = .next t :=
  ⟨by unfold State.Inv; decide,
    (next_of_after (p := fun _ => true) (by decide)).imp fun _ h => h.1⟩

theorem witness_TransactionsKeepMemoryCanonical :
    State.reset.Inv ∧ (State.reset.apply .step).faultMark = none ∧
    (State.reset.apply (.load [1#8])).faultMark = none := ⟨rfl, by decide, by decide⟩

theorem witness_RetPopsOrFails :
    State.reset.sp.val = 0 ∧ 0 < ({ State.reset with sp := 1 } : State).sp.val ∧
    0 < ({ State.reset with sp := 16 } : State).sp.val := by decide

theorem witness_CallPushesOrFails :
    ({ State.reset with sp := 16 } : State).sp.val = 16 ∧
    ({ State.reset with sp := 15 } : State).sp.val < 16 := by decide

theorem witness_CallThenRetBalances :
    let s := withBytes { State.reset with sp := 15 } 0x200 [0x22#8, 0x04#8, 0x12#8, 0x02#8, 0x00#8, 0xEE#8]
    s.CanFetch ∧ s.sp.val < 16 ∧ s.nextInstr = .call 0x204#12 ∧ (0x204#12).toNat + 1 < 0x1000 ∧
    decode (wordOfBytes (s.readByte (0x204#12).toNat) (s.readByte ((0x204#12).toNat + 1))) = .ret :=
  ⟨⟨rfl, by decide⟩, by decide, by decide, by decide, by decide⟩

theorem witness_NoopsChangeNothing :
    (([.nopClass0 0xAEE#12, .nopClass5 1#4 2#4 1#4, .nop8xy8 1#4 2#4, .nop8xy9 1#4 2#4,
      .nop8xyA 1#4 2#4, .nop8xyB 1#4 2#4, .nop8xyC 1#4 2#4, .nop8xyD 1#4 2#4, .nop8xyF 1#4 2#4,
      .nopClass9 1#4 2#4 15#4, .nopClassE 1#4 0x9F#8, .nopClassF 0#4 0x75#8] : List Instr).all
      fun i => i.isNop) = true := by decide

/-- Both values of each parameter are values of a state. -/
theorem witness_parameters :
    State.reset.cfg.vfOrder = .flagLast ∧ (otherParams State.reset).cfg.vfOrder = .resultLast ∧
    State.reset.cfg.bcdMode = .observed ∧ (otherParams State.reset).cfg.bcdMode = .decimal := by decide

theorem witness_BcdStoresDigits :
    (indexed 0xFFD#16 4 234).Inv ∧ (indexed 0xFFD#16 4 234).i.toNat + 2 < 0x1000 ∧
    (indexed 0xFFE#16 4 234).Inv ∧ 0x1000 ≤ (indexed 0xFFE#16 4 234).i.toNat + 2 :=
  ⟨rfl, by decide, rfl, by decide⟩

theorem witness_StoreRegistersBlock :
    (indexed 0xFF0#16 0 1).Inv ∧ (indexed 0xFF0#16 0 1).i.toNat + (15#4).toNat < 0x1000 ∧
    0x1000 ≤ (indexed 0xFF1#16 0 1).i.toNat + (15#4).toNat := ⟨rfl, by decide, by decide⟩

theorem witness_LoadRegistersBlock :
    (indexed 0xFFF#16 0 1).i.toNat + (0#4).toNat < 0x1000 ∧
    0x1000 ≤ (indexed 0xFFF#16 0 1).i.toNat + (1#4).toNat := by decide

theorem witness_StoreIsSeenByNextFetch :
    let s := (indexed 0x202#16 0 0x71).withFetchWord 16 0xF155
    s.CanFetch ∧ s.Inv ∧ s.nextInstr = .storeRegs 1#4 ∧ 1 ≤ (1#4).toNat ∧
    s.i.toNat = s.pc.toNat + 2 ∧ s.i.toNat + (1#4).toNat < 0x1000 :=
  ⟨⟨rfl, by decide⟩, by unfold State.Inv; decide, by decide, by decide, by decide, by decide⟩

/-- No rows, the last block that fits, and the first that does not. -/
theorem witness_DrawXorsSprite :
    (0#4 = 0#4) ∧ (indexed 0xFFF#16 0 0).i.toNat + (1#4).toNat ≤ 0x1000 ∧
    2#4 ≠ 0#4 ∧ 0x1000 < (indexed 0xFFF#16 0 0).i.toNat + (2#4).toNat := by decide

theorem witness_DrawTwiceRestoresFramebuffer :
    ∃ t, exec (.drw 0#4 1#4 5#4) State.reset = .next t ∧ t.reg 0#4 = State.reset.reg 0#4 ∧
      t.reg 1#4 = State.reset.reg 1#4 := by
  obtain ⟨t, h, p⟩ := next_of_after (r := exec (.drw 0#4 1#4 5#4) State.reset)
    (p := fun t => t.reg 0#4 == 0#8 && t.reg 1#4 == 0#8) (by decide)
  simp only [Bool.and_eq_true, beq_iff_eq] at p
  exact ⟨t, h, p.1, p.2⟩

theorem witness_DrawCollisionOverClearRegion :
    (∃ t, exec (.drw 0#4 1#4 5#4) State.reset = .next t ∧ t.reg 0#4 = State.reset.reg 0#4 ∧
      t.reg 1#4 = State.reset.reg 1#4) ∧
    ∀ row col, row < (5#4).toNat → col < 8 →
      State.reset.fb.pixel ((State.reset.reg 0#4).toNat + col) ((State.reset.reg 1#4).toNat + row) =
        false :=
  ⟨witness_DrawTwiceRestoresFramebuffer, fun _ _ _ _ => Framebuffer.pixel_clear _ _⟩

theorem witness_KeySkips :
    ((regs 1 15 0 0).reg 1#4).toNat = (15#4).toNat ∧ 16 ≤ ((regs 1 16 0 0).reg 1#4).toNat := by decide

theorem witness_KeyReadProtocol :
    let s := { State.reset with pending := true, latch := some 15#4 }
    let t := { State.reset with pending := true }
    s.pending = true ∧ s.latch = some 15#4 ∧ State.reset.pending = false ∧ t.latch = none := by decide

theorem witness_LatchedKeyNeedsTwoSteps :
    let s := ({ State.reset with latch := some 15#4 } : State).withFetchWord 16 0xF30A
    s.CanFetch ∧ s.nextInstr = .ldKey 3#4 ∧ s.pending = false ∧ s.latch = some 15#4 :=
  ⟨⟨rfl, by decide⟩, by decide, by decide, by decide⟩

/-- A press into an empty latch, and a press into a full one. -/
theorem witness_SetKeyRecordsAndLatches :
    State.reset.latch = none ∧ ({ State.reset with latch := some 0#4 } : State).latch ≠ none := by
  decide

theorem witness_ResetWritesListedStateOnly : (indexed 0x300#16 0 1).Inv := rfl

/-- The largest program that is accepted, and the smallest that is not. -/
theorem witness_LoadStoresProgram :
    State.reset.Inv ∧ (List.replicate 3584 0#8).length ≤ 3584 ∧
    3585 ≤ (List.replicate 3585 0#8).length :=
  ⟨rfl, by rw [List.length_replicate], by rw [List.length_replicate]⟩

theorem witness_BootGivesLaunchState :
    (indexed 0x300#16 0 1).Inv ∧ (List.replicate 3584 0#8).length ≤ 3584 :=
  ⟨rfl, by rw [List.length_replicate]⟩

/-- A frame that runs, one that a fault ends, and a state that has none. -/
theorem witness_FrameRunsIpfSteps :
    (State.stepPort^[2] (State.reset.setKeyPort 7#4 true).tickPort).faultMark = none ∧
    (State.stepPort^[1] ({ State.reset with pc := 0x0FFF#16 } : State).tickPort).faultMark =
      some (.fetchOutOfBounds 0x0FFF#16) ∧
    ({ State.reset with faultMark := some (.fetchOutOfBounds 0x0FFF#16) } : State).faultMark =
      some (.fetchOutOfBounds 0x0FFF#16) := ⟨by decide, by rfl, rfl⟩

/-- A lit pixel is rendered (R350 (d)). -/
theorem test_render :
    ((({ State.reset with fb := State.reset.fb.setPixel 63 31 true } : State).frame 1 []).1.grid.map
      fun g => g.pixel 63 31 && !g.pixel 0 0) = some true := by decide

theorem witness_FramesRunInOrder :
    (State.reset.frames 1 [[(7#4, true)], []]).2.faultMark = none ∧
    [[((7#4 : Nibble), true)], []][1]? = some [] := by decide

theorem witness_KeyStatesChangeOnlyBySetKey :
    ∀ k pressed, Transaction.step ≠ .setKey k pressed := by simp

theorem witness_SecondDrawCollidesWhereFirstLit :
    ∃ t, exec (.drw 0#4 1#4 5#4) State.reset = .next t ∧ t.reg 0#4 = State.reset.reg 0#4 ∧
      t.reg 1#4 = State.reset.reg 1#4 := witness_DrawTwiceRestoresFramebuffer

end Sys2Proof.Tests
end

section
/-! The tick port (spec/10_state.md R63). -/

namespace Sys2Proof.Machine

/-- Settles O50: the port ticks each timer once, which counts it down (R346), and writes no other
field. -/
theorem tickCountsDown : Obligations.TickCountsDown := by
  intro s
  have hdt : s.tickPort.dt.toNat = s.dt.toNat - 1 := toNat_tickTimer s.dt
  have hst : s.tickPort.st.toNat = s.st.toNat - 1 := toNat_tickTimer s.st
  exact ⟨hdt, hst, rfl⟩

end Sys2Proof.Machine
end

section
/-! The fetch (spec/20_memory.md R72). -/

namespace Sys2Proof.Machine

/-- The fetched word is the only word with the value R72 gives it. -/
theorem eq_wordOfBytes_of_toNat {w : Word} {hi lo : Byte}
    (h : w.toNat = 256 * hi.toNat + lo.toNat) : w = wordOfBytes hi lo := by
  apply BitVec.eq_of_toNat_eq
  rw [h, toNat_wordOfBytes, Nat.mul_comm]

/-- The advance of `PC` as R72 writes it, on natural numbers modulo `2^16`. -/
theorem State.beginStep_eq_ofNat (s : State) :
    s.beginStep =
      { s with pc := BitVec.ofNat 16 ((s.pc.toNat + 2) % 65536), outcome := .ok } := by
  have hpc : s.pc + 2#16 = BitVec.ofNat 16 ((s.pc.toNat + 2) % 65536) := by
    apply BitVec.eq_of_toNat_eq
    simp
  rw [State.beginStep, hpc]

/-- Settles O7: outside memory the fetch faults; inside it the step runs the word of the two bytes,
which its value determines. -/
theorem fetchBigEndianOrFaults : Obligations.FetchBigEndianOrFaults := by
  intro s hm
  refine ⟨fun hout => step_fetchFault hm hout, fun hin w hw => ?_⟩
  rw [step_exec hm hin, eq_wordOfBytes_of_toNat hw, State.beginStep_eq_ofNat]

end Sys2Proof.Machine
end

section
/-! The decode map and the no-op spaces (spec/30_encoding.md R105, R106). -/

namespace Sys2Proof

/-! ## Decoding an encoded instruction (R104) -/

theorem formatA_zero_ne {nnn a : Addr12} (h : nnn ≠ a) : formatA 0#4 nnn ≠ formatA 0#4 a :=
  fun e => h (by simpa using congrArg nnnOf e)

theorem decode_encode_nopClass0 {nnn : Addr12} (h : (Instr.nopClass0 nnn).wellFormed = true) :
    decode (encode (.nopClass0 nnn)) = .nopClass0 nnn := by
  obtain ⟨hcls, hret⟩ : nnn ≠ 0x0E0#12 ∧ nnn ≠ 0x0EE#12 := by simpa [Instr.wellFormed] using h
  have hw0 : formatA 0#4 nnn ≠ 0x00E0#16 := formatA_zero_ne hcls
  have hw1 : formatA 0#4 nnn ≠ 0x00EE#16 := formatA_zero_ne hret
  simp [encode, decode, decodeClass0, hw0, hw1]

/-- Decoding undoes encoding. Only a no-op of classes 0, 5, 9, E and F has to be well formed: there
the decoder tests the word against the instructions of the class (R106). -/
theorem decode_encode {i : Instr} (h : i.wellFormed = true) : decode (encode i) = i := by
  cases i with
  | cls => decide
  | ret => decide
  | nopClass0 nnn => exact decode_encode_nopClass0 h
  | nopClass5 x y n => simp_all [Instr.wellFormed, encode, decode, decodeClass5]
  | nopClass9 x y n => simp_all [Instr.wellFormed, encode, decode, decodeClass9]
  | nopClassE x kk => simp_all [Instr.wellFormed, isClassESubop, encode, decode, decodeClassE]
  | nopClassF x kk => simp_all [Instr.wellFormed, isClassFSubop, encode, decode, decodeClassF]
  | _ =>
    simp [encode, decode, decodeClass5, decodeClass8, decodeClass9, decodeClassE, decodeClassF]

/-- A word with the value of an instruction's encoding decodes to the instruction. -/
theorem decode_eq_of_toNat {w : Word} {i : Instr} (hi : i.wellFormed = true)
    (hw : w.toNat = (encode i).toNat) : decode w = i := by
  rw [BitVec.eq_of_toNat_eq hw, decode_encode hi]

/-! ## The words that decode to no-ops, class by class (R106) -/

theorem isNop_decodeClass0 (w : Word) :
    (decodeClass0 w).isNop = true ↔ w.toNat ≠ 0x00E0 ∧ w.toNat ≠ 0x00EE := by
  unfold decodeClass0
  split_ifs <;> simp_all [Instr.isNop, BitVec.toNat_eq]

theorem isNop_decodeClass5 (w : Word) : (decodeClass5 w).isNop = true ↔ w.toNat % 16 ≠ 0 := by
  unfold decodeClass5
  rw [← toNat_nOf]
  split_ifs <;> simp_all [Instr.isNop, BitVec.toNat_eq]

theorem isNop_decodeClass9 (w : Word) : (decodeClass9 w).isNop = true ↔ w.toNat % 16 ≠ 0 := by
  unfold decodeClass9
  rw [← toNat_nOf]
  split_ifs <;> simp_all [Instr.isNop, BitVec.toNat_eq]

theorem isNop_decodeClass8 (w : Word) :
    (decodeClass8 w).isNop = true ↔ w.toNat % 16 ∈ [0x8, 0x9, 0xA, 0xB, 0xC, 0xD, 0xF] := by
  unfold decodeClass8
  rw [← toNat_nOf]
  have := (nOf w).isLt
  split <;> simp_all [Instr.isNop]
  omega

theorem isNop_decodeClassE (w : Word) :
    (decodeClassE w).isNop = true ↔ w.toNat % 256 ∉ [0x9E, 0xA1] := by
  unfold decodeClassE
  rw [← toNat_kkOf]
  split_ifs <;> simp_all [Instr.isNop, BitVec.toNat_eq]

theorem isNop_decodeClassF (w : Word) :
    (decodeClassF w).isNop = true ↔
      w.toNat % 256 ∉ [0x07, 0x0A, 0x15, 0x18, 0x1E, 0x29, 0x33, 0x55, 0x65] := by
  unfold decodeClassF
  rw [← toNat_kkOf]
  split_ifs <;> simp_all [Instr.isNop, BitVec.toNat_eq]

/-- The five no-op spaces of R106. -/
theorem isNop_decode (w : Word) :
    (decode w).isNop = true ↔
      (w.toNat / 4096 = 0 ∧ w.toNat ≠ 0x00E0 ∧ w.toNat ≠ 0x00EE) ∨
      ((w.toNat / 4096 = 5 ∨ w.toNat / 4096 = 9) ∧ w.toNat % 16 ≠ 0) ∨
      (w.toNat / 4096 = 8 ∧ w.toNat % 16 ∈ [0x8, 0x9, 0xA, 0xB, 0xC, 0xD, 0xF]) ∨
      (w.toNat / 4096 = 0xE ∧ w.toNat % 256 ∉ [0x9E, 0xA1]) ∨
      (w.toNat / 4096 = 0xF ∧
        w.toNat % 256 ∉ [0x07, 0x0A, 0x15, 0x18, 0x1E, 0x29, 0x33, 0x55, 0x65]) := by
  have hlt := w.isLt
  have hclass : w.toNat / 4096 < 16 := by omega
  interval_cases hc : w.toNat / 4096 <;>
    simp only [decode, toNat_classOf, hc, isNop_decodeClass0, isNop_decodeClass5,
      isNop_decodeClass8, isNop_decodeClass9, isNop_decodeClassE, isNop_decodeClassF] <;>
    simp [Instr.isNop]

/-- Settles O4: a pattern's word has the value of its instruction's encoding, which decoding undoes;
a word outside the patterns lies in a no-op space. -/
theorem decodeFollowsTheMap : Obligations.DecodeFollowsTheMap := by
  refine ⟨fun nnn w => ?_, fun x kk w => ?_, fun x y n w => ?_, fun x w => ?_, fun w hw => ?_⟩
  · and_intros <;> intro hw <;> refine decode_eq_of_toNat rfl ?_ <;>
      simp only [hw, encode, toNat_formatA, BitVec.toNat_ofNat]
  · and_intros <;> intro hw <;> refine decode_eq_of_toNat rfl ?_ <;>
      simp only [hw, encode, toNat_formatXK, BitVec.toNat_ofNat] <;> omega
  · and_intros <;> intro hw <;> refine decode_eq_of_toNat rfl ?_ <;>
      simp only [hw, encode, toNat_formatXYN, BitVec.toNat_ofNat] <;> omega
  · and_intros <;> intro hw <;> refine decode_eq_of_toNat rfl ?_ <;>
      simp only [hw, encode, toNat_formatXK, BitVec.toNat_ofNat] <;> omega
  · have hspaces := (isNop_decode w).not.mp (by simp [hw])
    have hlt := w.isLt
    have hclass : w.toNat / 0x1000 < 16 := by omega
    interval_cases hc : w.toNat / 0x1000 <;> simp at hspaces ⊢ <;> omega

end Sys2Proof

namespace Sys2Proof.Machine

/-- A no-op answers the state the fetch leaves (R106). -/
theorem exec_of_isNop {i : Instr} (h : i.isNop = true) (s : State) : exec i s = .next s := by
  cases i <;> simp [Instr.isNop] at h <;> rfl

/-- Settles O5: the no-op spaces class by class, and the step as the no-op's meaning at the state the
fetch leaves. -/
theorem noopSpacesRunAsNoops : Obligations.NoopSpacesRunAsNoops := by
  refine ⟨isNop_decode, fun s ⟨hmark, hpc⟩ hnop => ?_⟩
  calc step s = exec s.nextInstr s.beginStep := step_exec hmark hpc
    _ = .next s.beginStep := exec_of_isNop hnop _

end Sys2Proof.Machine
end

section
/-! Control flow: RET, CALL, jumps and skips (spec/40_control_flow.md R141, R145, R150, R155 to
R160). -/

namespace Sys2Proof.Machine

/-! ## Jump targets on natural numbers -/

@[simp] theorem toNat_zextAddr (nnn : Addr12) : (zextAddr nnn).toNat = nnn.toNat :=
  BitVec.toNat_setWidth_of_le (by decide)

@[simp] theorem toNat_zextByte (b : Byte) : (zextByte b).toNat = b.toNat :=
  BitVec.toNat_setWidth_of_le (by decide)

/-- A 12-bit address plus a byte is below `2^16`, so the sum of R160 never wraps (92 D19). -/
theorem State.toNat_offsetTarget (s : State) (nnn : Addr12) :
    (s.offsetTarget nnn).toNat = nnn.toNat + (s.reg 0#4).toNat := by
  have hnnn := nnn.isLt
  have hv0 := (s.reg 0#4).isLt
  rw [State.offsetTarget, BitVec.toNat_add, toNat_zextAddr, toNat_zextByte]
  omega

/-! ## Skips -/

theorem State.skipIf_eq (s : State) (c : Bool) :
    s.skipIf c = { s with pc := (s.skipIf c).pc } := by cases c <;> rfl

theorem State.sameMemory_of_mem_eq {s t : State} (h : t.mem = s.mem) : s.SameMemory t := fun a => by
  rw [State.readByte, h, State.readByte]

theorem State.sameMemory_skipIf (s : State) (c : Bool) : s.SameMemory (s.skipIf c) :=
  State.sameMemory_of_mem_eq (s.skipIf_mem c)

/-- SE (R155, R157). -/
theorem State.toNat_pc_skipIf_beq (s : State) (a b : Byte) :
    (s.skipIf (a == b)).pc.toNat =
      if a.toNat = b.toNat then (s.pc.toNat + 2) % 65536 else s.pc.toNat := by
  by_cases h : a = b
  · simp [h]
  · simp [h, BitVec.toNat_inj]

/-- SNE (R156, R158). -/
theorem State.toNat_pc_skipIf_bne (s : State) (a b : Byte) :
    (s.skipIf (a != b)).pc.toNat =
      if a.toNat = b.toNat then s.pc.toNat else (s.pc.toNat + 2) % 65536 := by
  by_cases h : a = b
  · simp [h]
  · simp [h, BitVec.toNat_inj]

/-! ## The statements -/

/-- Settles O22: the two cases of the pop. -/
theorem retPopsOrFails : Obligations.RetPopsOrFails := by
  refine ⟨decode_encode (i := .ret) rfl, fun s => ⟨fun h => ?empty, fun h => ?pops⟩⟩
  case empty => exact popCall_empty (Fin.ext h)
  case pops =>
    have hsp : s.sp ≠ 0 := Fin.pos_iff_ne_zero.mp h
    refine ⟨_, popCall_pops hsp, rfl, ?_, rfl, fun _ => rfl⟩
    have hlt : s.sp.val - 1 < 16 := by omega
    simp [hlt]

/-- Settles O23: the two cases of the push; the entry at `SP` is the only one written. -/
theorem callPushesOrFails : Obligations.CallPushesOrFails := by
  refine fun s nnn => ⟨decode_encode (i := .call nnn) rfl, fun h => ?full, fun h => ?pushes⟩
  case full => exact pushCall_full h
  case pushes =>
    refine ⟨_, pushCall_pushes h, rfl, toNat_zextAddr nnn, fun j hj => ?_, rfl, fun _ => rfl⟩
    by_cases hjsp : j = s.sp.val
    · simp [hjsp, h]
    · simp [hjsp, Ne.symm hjsp]

/-- Settles O25: both jumps write `PC` only. -/
theorem jumpTargets : Obligations.JumpTargets := by
  refine fun s nnn => ⟨decode_encode (i := .jp nnn) rfl, decode_encode (i := .jpV0 nnn) rfl,
    ⟨_, rfl, ?jp, rfl, fun _ => rfl⟩, ⟨_, rfl, ?jpV0, rfl, fun _ => rfl⟩⟩
  case jp => exact toNat_zextAddr nnn
  case jpV0 => exact s.toNat_offsetTarget nnn

/-- Settles O26: SE and SNE are the two skips, on the register and the immediate. -/
theorem skipsOnImmediate : Obligations.SkipsOnImmediate := fun s x kk =>
  ⟨decode_encode (i := .seImm x kk) rfl, decode_encode (i := .sneImm x kk) rfl,
    ⟨_, rfl, s.skipIf_eq _, s.sameMemory_skipIf _, s.toNat_pc_skipIf_beq _ _⟩,
    ⟨_, rfl, s.skipIf_eq _, s.sameMemory_skipIf _, s.toNat_pc_skipIf_bne _ _⟩⟩

/-- Settles O27: SE and SNE are the two skips, on the two registers. -/
theorem skipsOnRegisterPair : Obligations.SkipsOnRegisterPair := fun s x y =>
  ⟨decode_encode (i := .seReg x y) rfl, decode_encode (i := .sneReg x y) rfl,
    ⟨_, rfl, s.skipIf_eq _, s.sameMemory_skipIf _, s.toNat_pc_skipIf_beq _ _⟩,
    ⟨_, rfl, s.skipIf_eq _, s.sameMemory_skipIf _, s.toNat_pc_skipIf_bne _ _⟩⟩

end Sys2Proof.Machine
end

section
/-! Arithmetic and logic: what a register write changes, the flag bytes, and the instructions
(spec/41_arithmetic.md R180 to R200). -/

namespace Sys2Proof.Machine

/-! ## Frames of the register writes -/

/-- A register write as the statements frame it. -/
theorem State.onlyRegs_setReg (s : State) (x : Nibble) (b : Byte) :
    s.OnlyRegs (s.setReg x b) [x] :=
  ⟨rfl, fun _ hr => s.reg_setReg_other b (List.ne_of_not_mem_cons hr), fun _ => rfl⟩

/-- A result with a flag as the statements frame it: `x` and VF are the only registers written. -/
theorem State.onlyRegs_writeResultFlag (s : State) (x : Nibble) (res flag : Byte) :
    s.OnlyRegs (s.writeResultFlag x res flag) [x, vf] := by
  refine ⟨s.writeResultFlag_eq x res flag, fun r hr => ?_, State.sameMemory_of_mem_eq (by simp)⟩
  obtain ⟨hx, hvf⟩ : r ≠ x ∧ r ≠ vf := by simpa using hr
  simp [State.reg_writeResultFlag, hx, hvf]

/-- `WriteResultFlag` in full (R180), with the two values as natural numbers: both are read back
where `x` is not VF, and the later write is where it is. -/
theorem State.resultAndFlag_writeResultFlag (s : State) (x : Nibble) {res flag : Byte} {r f : Nat}
    (hres : res.toNat = r) (hflag : flag.toNat = f) :
    s.ResultAndFlag (s.writeResultFlag x res flag) x r f := by
  refine ⟨s.onlyRegs_writeResultFlag x res flag, fun hx => ?_, fun hx ho => ?_, fun hx ho => ?_⟩
  · simp [State.reg_writeResultFlag, hx, hres, hflag]
  · simp [State.reg_writeResultFlag, hx, ho, hflag]
  · simp [State.reg_writeResultFlag, hx, ho, hres]

/-! ## Flag bytes as natural numbers -/

theorem toNat_flagByte (b : Bool) : (flagByte b).toNat = b.toNat := by cases b <;> rfl

/-- ADD's carry (R189). -/
theorem toNat_carryFlag (a b : Byte) :
    (carryFlag a b).toNat = if 255 < a.toNat + b.toNat then 1 else 0 := by
  rw [carryFlag, toNat_flagByte, Bool.toNat, Bool.cond_decide]

/-- NOT-borrow, by the case in which the difference does borrow (R190, R192). -/
theorem toNat_noBorrowFlag (a b : Byte) :
    (noBorrowFlag a b).toNat = if a.toNat < b.toNat then 0 else 1 := by
  rw [noBorrowFlag, toNat_flagByte, Bool.toNat, Bool.cond_decide]
  simp only [← Nat.not_lt, ite_not]

/-- Bit `k` of a byte, as the flag a shift leaves. -/
theorem toNat_flagByte_getLsbD (a : Byte) (k : Nat) :
    (flagByte (a.getLsbD k)).toNat = a.toNat / 2 ^ k % 2 := by
  rw [toNat_flagByte, BitVec.getLsbD, Nat.toNat_testBit]

/-- SHR's flag (R191). -/
theorem toNat_lowBit (a : Byte) : (lowBit a).toNat = a.toNat % 2 := by
  rw [lowBit, toNat_flagByte_getLsbD, Nat.pow_zero, Nat.div_one]

/-- SHL's flag (R193): a byte has no bit above bit 7. -/
theorem toNat_highBit (a : Byte) : (highBit a).toNat = a.toNat / 128 := by
  have := a.isLt
  rw [highBit, toNat_flagByte_getLsbD]
  omega

/-! ## Results as natural numbers -/

/-- The wrapped difference (R190, R192). -/
theorem toNat_byte_sub (a b : Byte) : (a - b).toNat = (a.toNat + 256 - b.toNat) % 256 := by
  have := b.isLt
  rw [BitVec.toNat_sub]
  omega

theorem toNat_byte_ushiftRight_one (a : Byte) : (a >>> 1).toNat = a.toNat / 2 := by
  rw [BitVec.toNat_ushiftRight, Nat.shiftRight_eq_div_pow, Nat.pow_one]

theorem toNat_byte_shiftLeft_one (a : Byte) : (a <<< 1).toNat = a.toNat * 2 % 256 := by
  rw [BitVec.toNat_shiftLeft, Nat.shiftLeft_eq, Nat.pow_one]

/-! ## The statements -/

/-- Settles O32: ADD is `WriteResultFlag` of the wrapped sum and the carry. -/
theorem addSetsCarry : Obligations.AddSetsCarry := fun s x y =>
  ⟨decode_encode (i := .addReg x y) rfl, _, rfl,
    s.resultAndFlag_writeResultFlag x (BitVec.toNat_add _ _) (toNat_carryFlag _ _)⟩

/-- Settles O33: SUB and SUBN are `WriteResultFlag` of the wrapped difference and its NOT-borrow,
with the operands in the two orders. -/
theorem subtractionsSetNotBorrow : Obligations.SubtractionsSetNotBorrow := fun s x y =>
  ⟨decode_encode (i := .subReg x y) rfl, decode_encode (i := .subnReg x y) rfl,
    ⟨_, rfl, s.resultAndFlag_writeResultFlag x (toNat_byte_sub _ _) (toNat_noBorrowFlag _ _)⟩,
    ⟨_, rfl, s.resultAndFlag_writeResultFlag x (toNat_byte_sub _ _) (toNat_noBorrowFlag _ _)⟩⟩

/-- Settles O34: SHR and SHL are `WriteResultFlag` of the shifted `V[x]` and of its bit 0 or 7. -/
theorem shiftsSetShiftedOutBit : Obligations.ShiftsSetShiftedOutBit := fun s x y =>
  ⟨decode_encode (i := .shr x y) rfl, decode_encode (i := .shl x y) rfl,
    ⟨_, rfl, s.resultAndFlag_writeResultFlag x (toNat_byte_ushiftRight_one _) (toNat_lowBit _)⟩,
    ⟨_, rfl, s.resultAndFlag_writeResultFlag x (toNat_byte_shiftLeft_one _) (toNat_highBit _)⟩⟩

/-- Settles O28: every no-op answers the state it is given. -/
theorem noopsChangeNothing : Obligations.NoopsChangeNothing := fun s _ hnop => exec_of_isNop hnop s

/-- Settles O29: both loads are one register write. -/
theorem loadImmediateAndCopy : Obligations.LoadImmediateAndCopy := fun s x y kk =>
  ⟨decode_encode (i := .ldImm x kk) rfl, decode_encode (i := .ldReg x y) rfl,
    ⟨_, rfl, s.onlyRegs_setReg x _, s.reg_setReg_same x _⟩,
    ⟨_, rfl, s.onlyRegs_setReg x _, s.reg_setReg_same x _⟩⟩

/-- Settles O30: one register write, of the wrapped sum. -/
theorem addImmediateWraps : Obligations.AddImmediateWraps := by
  refine fun s x kk =>
    ⟨decode_encode (i := .addImm x kk) rfl, _, rfl, s.onlyRegs_setReg x _, ?_⟩
  rw [State.reg_setReg_same, BitVec.toNat_add]

/-- Settles O31: each is one register write, read back bit by bit. -/
theorem bitwiseOperations : Obligations.BitwiseOperations := by
  refine fun s x y =>
    ⟨decode_encode (i := .orReg x y) rfl, decode_encode (i := .andReg x y) rfl,
      decode_encode (i := .xorReg x y) rfl,
      ⟨_, rfl, s.onlyRegs_setReg x _, fun k => ?or⟩,
      ⟨_, rfl, s.onlyRegs_setReg x _, fun k => ?and⟩,
      ⟨_, rfl, s.onlyRegs_setReg x _, fun k => ?xor⟩⟩
  case or => rw [State.reg_setReg_same, BitVec.getLsbD_or]
  case and => rw [State.reg_setReg_same, BitVec.getLsbD_and]
  case xor => rw [State.reg_setReg_same, BitVec.getLsbD_xor]

/-- Settles O35: the draw moves the index into the stream of free bytes, and the write of the masked
byte is the only other change. -/
theorem randomByteIsMasked : Obligations.RandomByteIsMasked := by
  refine fun s x kk =>
    ⟨decode_encode (i := .rnd x kk) rfl, _, rfl, fun k => ?bits, rfl, fun r hr => ?regs,
      fun _ => rfl⟩
  case bits => rw [State.reg_setReg_same, BitVec.getLsbD_and, State.rndByte]
  case regs =>
    rw [State.reg_setReg_other _ _ (List.ne_of_not_mem_cons hr)]
    exact State.reg_congr s.drawRnd_v r

end Sys2Proof.Machine
end

section
/-! The index register and memory transfers (spec/42_index_memory.md R229 to R241). -/

namespace Sys2Proof.Machine

/-! ## The values written to the index register -/

/-- ADD I (R231). -/
theorem toNat_add_zextByte (w : Word) (b : Byte) :
    (w + zextByte b).toNat = (w.toNat + b.toNat) % 65536 := by
  rw [BitVec.toNat_add, toNat_zextByte]

/-- LD F (R232): the last glyph's address is 75, so the product never wraps. -/
theorem toNat_glyphAddr (b : Byte) : (glyphAddr b).toNat = 5 * (b.toNat % 16) := by
  rw [glyphAddr, BitVec.toNat_ofNat]
  omega

/-! ## A block stored through the index register -/

/-- A store inside memory: each byte of the block reads back at its address, and only the block's
addresses change (R76, R229). -/
theorem storeAtIndex_readsBack {s : State} {bs : List Byte} (hs : s.Inv)
    (hfits : s.i.toNat + bs.length ≤ memSize) :
    ∃ t, storeAtIndex s bs = .next t ∧
      (∀ (j : Nat) (hj : j < bs.length), t.readByte (s.i.toNat + j) = bs[j]) ∧
      t = { s with mem := t.mem } ∧ s.SameMemoryOutside t s.i.toNat bs.length :=
  ⟨_, storeAtIndex_stores hfits, fun _ hj => read_installBytes_same hs hfits hj, rfl,
    fun _ hb => read_installBytes_other hb⟩

/-! ## The decimal digits of LD B (R235) -/

@[simp] theorem bcdDigits_length (mode : BcdMode) (v : Byte) : (bcdDigits mode v).length = 3 := rfl

theorem bcdDigits_ne_nil (mode : BcdMode) (v : Byte) : bcdDigits mode v ≠ [] :=
  List.cons_ne_nil _ _

theorem toNat_bcdDigits_hundreds (mode : BcdMode) (v : Byte) :
    (bcdDigits mode v)[0].toNat = v.toNat / 100 := by
  have := v.isLt
  exact Nat.mod_eq_of_lt (by omega)

theorem toNat_bcdDigits_middle_observed {mode : BcdMode} (hmode : mode = .observed) (v : Byte) :
    (bcdDigits mode v)[1].toNat = 0 := by
  subst hmode
  rfl

theorem toNat_bcdDigits_middle_decimal {mode : BcdMode} (hmode : mode = .decimal) (v : Byte) :
    (bcdDigits mode v)[1].toNat = v.toNat / 10 % 10 := by
  subst hmode
  exact Nat.mod_eq_of_lt (by omega)

theorem toNat_bcdDigits_ones (mode : BcdMode) (v : Byte) :
    (bcdDigits mode v)[2].toNat = v.toNat % 10 :=
  Nat.mod_eq_of_lt (by omega)

/-! ## The register block of LD [I] (R240) -/

theorem State.regBlock_ne_nil (s : State) (x : Nibble) : s.regBlock x ≠ [] :=
  List.ne_nil_of_length_eq_add_one (s.regBlock_length x)

/-! ## The statements -/

/-- Settles O37: LD B is the store of the three digits, which read back one by one. -/
theorem bcdStoresDigits : Obligations.BcdStoresDigits := by
  refine fun s x hs => ⟨decode_encode (i := .ldB x) rfl, fun h => ?stores, fun h => ?faults⟩
  case stores =>
    obtain ⟨t, ht, hbytes, hframe, hmem⟩ :=
      storeAtIndex_readsBack (bs := bcdDigits s.cfg.bcdMode (s.reg x)) hs h
    refine ⟨t, ht, ?hundreds, fun hmode => ?observed, fun hmode => ?decimal, ?ones, hframe, hmem⟩
    case hundreds =>
      rw [← Nat.add_zero s.i.toNat, hbytes 0 (by simp), toNat_bcdDigits_hundreds]
    case observed => rw [hbytes 1 (by simp), toNat_bcdDigits_middle_observed hmode]
    case decimal => rw [hbytes 1 (by simp), toNat_bcdDigits_middle_decimal hmode]
    case ones => rw [hbytes 2 (by simp), toNat_bcdDigits_ones]
  case faults => exact storeAtIndex_faults (bcdDigits_ne_nil _ _) (Nat.lt_succ_of_le h)

/-- Settles O38: LD [I] is the store of the register block, whose byte `r` is `V[r]`. -/
theorem storeRegistersBlock : Obligations.StoreRegistersBlock := by
  refine fun s x hs => ⟨decode_encode (i := .storeRegs x) rfl, fun h => ?stores, fun h => ?faults⟩
  case stores =>
    have hlen := s.regBlock_length x
    obtain ⟨t, ht, hbytes, hframe, hmem⟩ :=
      storeAtIndex_readsBack (bs := s.regBlock x) hs (by rw [hlen]; exact h)
    refine ⟨t, ht, fun r hr => ?_, hframe, hlen ▸ hmem⟩
    rw [hbytes r.toNat (by omega), State.regBlock_get, State.reg]
  case faults =>
    refine storeAtIndex_faults (s.regBlock_ne_nil x) ?_
    rw [State.regBlock_length]
    exact Nat.lt_succ_of_le h

/-- Settles O39: the load writes the register file only, and each register reads as the block load
leaves it. -/
theorem loadRegistersBlock : Obligations.LoadRegistersBlock := fun s x =>
  ⟨decode_encode (i := .loadRegs x) rfl,
    fun h => ⟨_, execLoadRegs_loads h, reg_loadBlock s x, rfl, fun _ => rfl⟩,
    fun h => execLoadRegs_faults (Nat.lt_succ_of_le h)⟩

/-- Settles O36: each of the three forms writes the index register only. -/
theorem indexRegisterForms : Obligations.IndexRegisterForms := fun s x nnn =>
  ⟨decode_encode (i := .ldI nnn) rfl, decode_encode (i := .addI x) rfl,
    decode_encode (i := .ldF x) rfl,
    ⟨_, rfl, toNat_zextAddr nnn, rfl, fun _ => rfl⟩,
    ⟨_, rfl, toNat_add_zextByte s.i (s.reg x), rfl, fun _ => rfl⟩,
    ⟨_, rfl, toNat_glyphAddr (s.reg x), rfl, fun _ => rfl⟩⟩

end Sys2Proof.Machine
end

section
/-! CLS, and what DRW does to every pixel and to VF (spec/43_display.md R260 to R262). -/

namespace Sys2Proof.Machine

/-! ## The sprite's bytes -/

@[simp] theorem State.spriteRows_length (s : State) (n : Nibble) :
    (s.spriteRows n).length = n.toNat := by simp [State.spriteRows]

@[simp] theorem State.spriteRows_getElem (s : State) (n : Nibble) (row : Nat)
    (h : row < (s.spriteRows n).length) :
    (s.spriteRows n)[row] = s.readByte (s.i.toNat + row) := by simp [State.spriteRows]

/-- A sprite has at most 15 rows, so no two of them wrap to the same row of the display. -/
theorem State.spriteRows_length_le (s : State) (n : Nibble) : (s.spriteRows n).length ≤ 32 := by
  have := n.isLt
  rw [State.spriteRows_length]
  omega

/-! ## The pixels after a draw -/

/-- The draw XORs the sprite in, pixel by pixel. -/
theorem pixel_drawSprite (s : State) (x y n : Nibble) (qx qy : Nat) :
    (drawSprite x y (s.spriteRows n) s).fb.pixel qx qy =
      (s.fb.pixel qx qy ^^
        spriteBit (s.reg x).toNat (s.reg y).toNat (s.spriteRows n) qx qy) := by
  rw [fb_drawSprite, pixel_drawRows _ _ _ _ _ (s.spriteRows_length_le n)]

theorem pixel_drawSprite_at (s : State) (x y : Nibble) {n : Nibble} {row col : Nat}
    (hr : row < n.toNat) (hc : col < 8) :
    (drawSprite x y (s.spriteRows n) s).fb.pixel ((s.reg x).toNat + col) ((s.reg y).toNat + row) =
      (s.fb.pixel ((s.reg x).toNat + col) ((s.reg y).toNat + row) ^^
        (s.readByte (s.i.toNat + row)).getLsbD (7 - col)) := by
  rw [pixel_drawSprite, spriteBit_at _ (s.spriteRows_length_le n) (by simpa using hr) hc,
    State.spriteRows_getElem]

theorem pixel_drawSprite_outside (s : State) (x y : Nibble) {n : Nibble} {qx qy : Nat}
    (h : ∀ row col, row < n.toNat → col < 8 →
      ¬ (((s.reg x).toNat + col) % 64 = qx % 64 ∧ ((s.reg y).toNat + row) % 32 = qy % 32)) :
    (drawSprite x y (s.spriteRows n) s).fb.pixel qx qy = s.fb.pixel qx qy := by
  have hbit : spriteBit (s.reg x).toNat (s.reg y).toNat (s.spriteRows n) qx qy = false :=
    spriteBit_outside _ fun row hr col hc => h row col (by simpa using hr) hc
  rw [pixel_drawSprite, hbit, Bool.xor_false]

/-! ## The collision flag -/

/-- Some 1 bit of the sprite lies over a pixel that is lit in `s` (R262). -/
def State.SpriteCollides (s : State) (x y n : Nibble) : Prop :=
  ∃ row col, row < n.toNat ∧ col < 8 ∧
    s.fb.pixel ((s.reg x).toNat + col) ((s.reg y).toNat + row) = true ∧
    (s.readByte (s.i.toNat + row)).getLsbD (7 - col) = true

/-- The flag that the toggles collect, starting from none. -/
theorem collided_spriteRows (s : State) (x y n : Nibble) :
    (drawRows (s.reg x).toNat (s.reg y).toNat (s.spriteRows n) (s.fb, false)).2 = true ↔
      s.SpriteCollides x y n := by
  rw [collided_drawRows _ _ _ (s.spriteRows_length_le n)]
  simp [State.SpriteCollides]

theorem reg_vf_drawSprite_collides {s : State} {x y n : Nibble} (h : s.SpriteCollides x y n) :
    (drawSprite x y (s.spriteRows n) s).reg vf = 1#8 := by
  rw [reg_drawSprite, if_pos rfl, (collided_spriteRows s x y n).mpr h]
  rfl

theorem reg_vf_drawSprite_not_collides {s : State} {x y n : Nibble}
    (h : ¬ s.SpriteCollides x y n) : (drawSprite x y (s.spriteRows n) s).reg vf = 0#8 := by
  rw [reg_drawSprite, if_pos rfl, Bool.eq_false_iff.mpr ((collided_spriteRows s x y n).not.mpr h)]
  rfl

theorem sameRegsBut_drawSprite (s : State) (x y : Nibble) (rows : List Byte) :
    s.SameRegsBut (drawSprite x y rows s) [vf] := fun r hr => by
  rw [reg_drawSprite, if_neg (List.ne_of_not_mem_cons hr)]

/-! ## The statements -/

/-- Settles O42: each pixel is XORed with the sprite's bit there, VF is 1 in a collision and 0
otherwise, and a block that leaves memory is the fault of the block read. -/
theorem drawXorsSprite : Obligations.DrawXorsSprite := by
  refine fun s x y n =>
    ⟨decode_encode (i := .drw x y n) rfl, fun h => ?draws, fun hn h => execDrw_faults hn h⟩
  case draws =>
    refine ⟨_, execDrw_draws h, fun _ _ => pixel_drawSprite_at s x y,
      fun _ _ => pixel_drawSprite_outside s x y, ?flag, drawSprite_eq x y _ s,
      sameRegsBut_drawSprite s x y _, fun _ => rfl⟩
    by_cases hit : s.SpriteCollides x y n
    · exact .inl ⟨reg_vf_drawSprite_collides hit, hit⟩
    · exact .inr ⟨reg_vf_drawSprite_not_collides hit, fun row col hr hc hlit =>
        Bool.eq_false_iff.mpr fun hbit => hit ⟨row, col, hr, hc, hlit, hbit⟩⟩

/-- Settles O41: CLS writes the cleared framebuffer and no other field. -/
theorem clsClearsEveryPixel : Obligations.ClsClearsEveryPixel :=
  ⟨decode_encode (i := .cls) rfl, fun _ =>
    ⟨_, rfl, fun px py => Framebuffer.pixel_clear px.val py.val, rfl, fun _ => rfl⟩⟩

end Sys2Proof.Machine
end

section
/-! Key skips, the blocking key read and the timer transfers (spec/44_input_timers.md R280 to
R292). -/

namespace Sys2Proof.Machine

/-! ## Key skips (R280, R281) -/

theorem State.toNat_pc_skipIf (s : State) (c : Bool) :
    (s.skipIf c).pc.toNat = if c then (s.pc.toNat + 2) % 65536 else s.pc.toNat := by
  cases c <;> simp

/-- The skip by the key that `V[x]` names. -/
theorem skipOnKey_of_toNat_eq {s : State} {x k : Nibble} (want : Bool)
    (h : (s.reg x).toNat = k.toNat) :
    skipOnKey x want s = .next (s.skipIf (s.isPressed k == want)) := by
  rw [skipOnKey_skips (h ▸ k.isLt), h, BitVec.ofNat_toNat, BitVec.setWidth_eq]

/-! ## The poll and LD Vx, K (R285, R344) -/

/-- A pending request takes the latched key. -/
theorem pollBlockingRead_delivers {s : State} {k : Nibble} (hp : s.pending = true)
    (hl : s.latch = some k) :
    s.pollBlockingRead = (some k, { s with latch := none, pending := false }) := by
  simp [State.pollBlockingRead, hp, hl]

/-- In both cases without a key the poll leaves a request pending; where one was pending already,
that is no change. -/
theorem pollBlockingRead_waits {s : State} (h : s.pending = false ∨ s.latch = none) :
    s.pollBlockingRead = (none, { s with pending := true }) := by
  obtain ⟨-, hpoll⟩ | ⟨k, hp, hl, -⟩ | ⟨hp, -, hpoll⟩ := pollBlockingRead_cases s
  · exact hpoll
  · simp [hp, hl] at h
  · rw [hpoll, ← hp]

theorem execLdKey_delivers {s : State} {k : Nibble} (x : Nibble) (hp : s.pending = true)
    (hl : s.latch = some k) :
    execLdKey x s =
      .next (State.setReg { s with latch := none, pending := false } x (k.setWidth 8)) := by
  rw [execLdKey, pollBlockingRead_delivers hp hl]

theorem execLdKey_waits {s : State} (x : Nibble) (h : s.pending = false ∨ s.latch = none) :
    execLdKey x s = .next (State.rewind { s with pending := true }) := by
  rw [execLdKey, pollBlockingRead_waits h]

/-- The step back of `PC` as R285 writes it, on natural numbers modulo `2^16`. -/
theorem State.rewind_eq_ofNat (s : State) :
    s.rewind = { s with pc := BitVec.ofNat 16 ((s.pc.toNat + 65534) % 65536) } := by
  have hpc : s.pc - 2#16 = BitVec.ofNat 16 ((s.pc.toNat + 65534) % 65536) := by
    apply BitVec.eq_of_toNat_eq
    simp [BitVec.toNat_sub, Nat.add_comm]
  rw [State.rewind, hpc]

/-! ## The sound output (R67) -/

theorem State.soundActive_iff (s : State) : s.soundActive = true ↔ s.st.toNat ≠ 0 := by
  simp [State.soundActive, ← BitVec.toNat_inj]

/-! ## The statements -/

/-- Settles O45: SKP and SKNP are the two skips on the named key, and an index of 16 or more is the
fault of the shared operation. -/
theorem keySkips : Obligations.KeySkips := by
  refine fun s x k => ⟨decode_encode (i := .skp x) rfl, decode_encode (i := .sknp x) rfl,
    fun h => ⟨⟨_, skipOnKey_of_toNat_eq true h, s.skipIf_eq _, s.sameMemory_skipIf _, ?skp⟩,
      ⟨_, skipOnKey_of_toNat_eq false h, s.skipIf_eq _, s.sameMemory_skipIf _, ?sknp⟩⟩,
    fun h => ⟨skipOnKey_faults h, skipOnKey_faults h⟩⟩
  case skp => rw [State.toNat_pc_skipIf, beq_true]
  case sknp => rw [State.toNat_pc_skipIf]; cases s.isPressed k <;> rfl

/-- Settles O46: the two answers of the poll, a register write and a step back of `PC`. -/
theorem keyReadProtocol : Obligations.KeyReadProtocol := by
  refine fun s x => ⟨decode_encode (i := .ldKey x) rfl, fun k hp hl => ?delivers, fun h => ?waits⟩
  case delivers =>
    obtain ⟨-, hregs, hmem⟩ :=
      State.onlyRegs_setReg { s with latch := none, pending := false } x (k.setWidth 8)
    refine ⟨_, execLdKey_delivers x hp hl, ?_, rfl, hregs, hmem⟩
    rw [State.reg_setReg_same, BitVec.toNat_setWidth_of_le (by decide)]
  case waits => exact (execLdKey_waits x h).trans (congrArg _ (State.rewind_eq_ofNat _))

/-- Settles O48: each transfer writes its destination only, and ST alone decides the sound output. -/
theorem timerTransfers : Obligations.TimerTransfers := fun s x =>
  ⟨decode_encode (i := .ldFromDt x) rfl, decode_encode (i := .ldDt x) rfl,
    decode_encode (i := .ldSt x) rfl,
    ⟨_, rfl, s.onlyRegs_setReg x s.dt, s.reg_setReg_same x s.dt⟩,
    ⟨_, rfl, rfl, rfl, fun _ => rfl⟩,
    ⟨_, rfl, rfl, rfl, fun _ => rfl, State.soundActive_iff _⟩⟩

end Sys2Proof.Machine
end

section
/-! The `set_key` port (spec/60_exceptions.md, R342). -/

namespace Sys2Proof.Machine

/-! ## The latch after a key event -/

/-- A press made while no key is latched is the one that latches. -/
theorem State.latch_setKey_latches {s : State} (k : Nibble) (h : s.latch = none) :
    (s.setKey k true).latch = some k := by
  rw [State.setKey_latch, h]; rfl

/-- A release, and a press behind a latched one, are not latched (92 D21). -/
theorem State.latch_setKey_keeps {s : State} {pressed : Bool} (k : Nibble)
    (h : pressed = false ∨ s.latch ≠ none) : (s.setKey k pressed).latch = s.latch := by
  rw [State.setKey_latch]
  refine if_neg fun hlatches => ?_
  obtain ⟨hpressed, hempty⟩ := Bool.and_eq_true_iff.mp hlatches
  obtain hreleased | hlatched := h
  · exact Bool.false_ne_true (hreleased.symm.trans hpressed)
  · exact hlatched (Option.isNone_iff_eq_none.mp hempty)

/-! ## The statement -/

/-- Settles O49: the port writes one key state and, at a press with the latch empty, the latch. -/
theorem setKeyRecordsAndLatches : Obligations.SetKeyRecordsAndLatches := by
  refine fun s k pressed => ⟨fun j => isPressed_setKey s k j pressed, ?latches,
    State.latch_setKey_keeps k, rfl⟩
  case latches =>
    rintro rfl hempty
    exact State.latch_setKey_latches k hempty

end Sys2Proof.Machine
end

section
/-! The `reset` and `load` ports and the boot order (spec/70_reset_and_hazards.md R370 to R374). -/

namespace Sys2Proof.Machine

/-! ## The font in memory after a reset (R41, R370) -/

theorem fontBytes_getElem (f : Font) {j : Nat} (hj : j < (fontBytes f).length) :
    (fontBytes f)[j] = fontByte f j := by simp [fontBytes]

/-- The glyphs of the parameter read back from address 0 on. -/
theorem State.readByte_resetPort_glyph {s : State} (hs : s.Inv) {g b : Nat} (hg : g < 16)
    (hb : b < 5) : s.resetPort.readByte (5 * g + b) = s.cfg.font[g][b] := by
  have hlen := fontBytes_length s.cfg.font
  have hj : 5 * g + b < (fontBytes s.cfg.font).length := by omega
  have hfits : 0 + (fontBytes s.cfg.font).length ≤ memSize := by rw [hlen]; decide
  calc s.resetPort.readByte (5 * g + b)
      = (installBytes s.mem 0 (fontBytes s.cfg.font)).read (0 + (5 * g + b)) := by
        rw [State.readByte, State.resetPort_mem, Nat.zero_add]
    _ = (fontBytes s.cfg.font)[5 * g + b] := read_installBytes_same hs hfits hj
    _ = fontByte s.cfg.font (5 * g + b) := fontBytes_getElem _ hj
    _ = s.cfg.font[g][b] := fontByte_glyph _ hg hb

/-- The reset writes no byte outside the font's 80. -/
theorem State.sameMemoryOutside_resetPort (s : State) : s.SameMemoryOutside s.resetPort 0 80 :=
  fun a ha => by
    rw [State.readByte, State.resetPort_mem, read_installBytes_other (by rwa [fontBytes_length]),
      State.readByte]

/-! ## A program that fits, and one that is too large (R372, R373) -/

/-- A program of at most 3584 bytes lies inside memory, and reads back byte by byte. -/
theorem read_installBytes_program {m : Memory} {bytes : List Byte} (hm : m.wf = true)
    (h : bytes.length ≤ maxRom) (j : Nat) (hj : j < bytes.length) :
    (installBytes m 0x200 bytes).read (0x200 + j) = bytes[j] :=
  have hfits : 0x200 + bytes.length ≤ memSize := Nat.add_le_add_left h 0x200
  read_installBytes_same hm hfits hj

/-- The boot order ends in no state when the load is refused (R373; log 12). -/
theorem boot_tooLarge (inputs : State) {rom : List Byte} (h : maxRom < rom.length) :
    boot inputs rom = none := by
  rw [boot, State.loadPort_tooLarge _ h]

/-! ## The statements -/

/-- Settles O51: the port writes five fields, and memory only in the font's 80 bytes. -/
theorem resetWritesListedStateOnly : Obligations.ResetWritesListedStateOnly := by
  refine fun s hs => ⟨rfl, rfl, rfl, fun j hj => ?stack,
    fun g b hg hb => State.readByte_resetPort_glyph hs hg hb, s.sameMemoryOutside_resetPort, ?frame⟩
  case stack =>
    rw [State.resetPort_stack, Vector.toList_replicate, List.getElem?_replicate_of_lt hj]
  case frame => simp only [State.resetPort]

/-- Settles O52: the two cases of the size check, and the boot order in the second. -/
theorem loadStoresProgram : Obligations.LoadStoresProgram := by
  refine fun s bytes hs => ⟨fun h => ?fits, fun h => ?tooLarge⟩
  case fits =>
    exact ⟨_, s.loadPort_fits h, read_installBytes_program hs h,
      fun _ ha => read_installBytes_other ha, rfl⟩
  case tooLarge => exact ⟨s.loadPort_tooLarge h, boot_tooLarge s h⟩

end Sys2Proof.Machine
end

section
/-! Decoding undoes encoding and encoding undoes decoding (spec/30_encoding.md §3, §4). -/

namespace Sys2Proof

/-! ## The bytes of an instruction (R72) -/

/-- A word is put together again from its two bytes. -/
theorem wordOfBytes_bytes (w : Word) :
    wordOfBytes (w.extractLsb' 8 8) (w.extractLsb' 0 8) = w := by
  have := w.isLt
  apply BitVec.eq_of_toNat_eq
  simp only [toNat_wordOfBytes, BitVec.extractLsb'_toNat, Nat.shiftRight_eq_div_pow]
  omega

/-- Settles O2: the two bytes are the encoded word again, which decoding undoes. -/
theorem decodeOfEncode : Obligations.DecodeOfEncode := by
  intro i hi
  rw [encodeBytes, decodeBytes, wordOfBytes_bytes, decode_encode hi]

/-! ## Encoding a decoded word, class by class (R105, R106) -/

/-- The instruction is well formed and stands for the word. -/
def Instr.StandsFor (i : Instr) (w : Word) : Prop := encode i = w ∧ i.wellFormed = true

theorem formatA_of_class {w : Word} {c : Nibble} (h : classOf w = c) : formatA c (nnnOf w) = w :=
  h ▸ formatA_fields w

theorem formatXK_of_class {w : Word} {c : Nibble} (h : classOf w = c) :
    formatXK c (xOf w) (kkOf w) = w := h ▸ formatXK_fields w

theorem formatXYN_of_class {w : Word} {c : Nibble} (h : classOf w = c) :
    formatXYN c (xOf w) (yOf w) (nOf w) = w := h ▸ formatXYN_fields w

/-- A sub-opcode read from the low byte goes back to the word it was read from. -/
theorem formatXK_of_subop {w : Word} {c : Nibble} {kk : Byte} (h : classOf w = c)
    (hk : kkOf w = kk) : formatXK c (xOf w) kk = w := hk ▸ formatXK_of_class h

/-- A sub-opcode read from the low nibble goes back to the word it was read from. -/
theorem formatXYN_of_subop {w : Word} {c n : Nibble} (h : classOf w = c) (hn : nOf w = n) :
    formatXYN c (xOf w) (yOf w) n = w := hn ▸ formatXYN_of_class h

theorem standsFor_decodeClass0 {w : Word} (h : classOf w = 0x0#4) :
    (decodeClass0 w).StandsFor w := by
  have hw := formatA_of_class h
  unfold decodeClass0
  split_ifs with hcls hret
  · exact ⟨hcls.symm, rfl⟩
  · exact ⟨hret.symm, rfl⟩
  · have hncls : nnnOf w ≠ 0x0E0#12 := fun e => hcls (by rw [← hw, e]; rfl)
    have hnret : nnnOf w ≠ 0x0EE#12 := fun e => hret (by rw [← hw, e]; rfl)
    exact ⟨hw, by simp [Instr.wellFormed, hncls, hnret]⟩

theorem standsFor_decodeClass5 {w : Word} (h : classOf w = 0x5#4) :
    (decodeClass5 w).StandsFor w := by
  unfold decodeClass5
  split_ifs with hn
  · exact ⟨formatXYN_of_subop h hn, rfl⟩
  · exact ⟨formatXYN_of_class h, by simpa [Instr.wellFormed] using hn⟩

theorem standsFor_decodeClass9 {w : Word} (h : classOf w = 0x9#4) :
    (decodeClass9 w).StandsFor w := by
  unfold decodeClass9
  split_ifs with hn
  · exact ⟨formatXYN_of_subop h hn, rfl⟩
  · exact ⟨formatXYN_of_class h, by simpa [Instr.wellFormed] using hn⟩

/-- Each of the sixteen low nibbles is the sub-opcode of its line. -/
theorem standsFor_decodeClass8 {w : Word} (h : classOf w = 0x8#4) :
    (decodeClass8 w).StandsFor w := by
  have of_subop {n : Nibble} (hn : (nOf w).toNat = n.toNat) :
      formatXYN 0x8#4 (xOf w) (yOf w) n = w := formatXYN_of_subop h (BitVec.eq_of_toNat_eq hn)
  have hlt : (nOf w).toNat < 16 := (nOf w).isLt
  unfold decodeClass8
  split
  case h_16 =>
    have hn : (nOf w).toNat = 15 := by simp only [imp_false] at *; omega
    exact ⟨of_subop hn, rfl⟩
  all_goals exact ⟨of_subop (by assumption), rfl⟩

theorem standsFor_decodeClassE {w : Word} (h : classOf w = 0xE#4) :
    (decodeClassE w).StandsFor w := by
  unfold decodeClassE
  split_ifs with hskp hsknp
  · exact ⟨formatXK_of_subop h hskp, rfl⟩
  · exact ⟨formatXK_of_subop h hsknp, rfl⟩
  · exact ⟨formatXK_of_class h, by simp [Instr.wellFormed, isClassESubop, hskp, hsknp]⟩

theorem standsFor_decodeClassF {w : Word} (h : classOf w = 0xF#4) :
    (decodeClassF w).StandsFor w := by
  unfold decodeClassF
  split_ifs
  case neg => exact ⟨formatXK_of_class h, by simp [Instr.wellFormed, isClassFSubop, *]⟩
  all_goals exact ⟨formatXK_of_subop h ‹_›, rfl⟩

/-- Every word is the encoding of the well-formed instruction it decodes to. -/
theorem standsFor_decode (w : Word) : (decode w).StandsFor w := by
  have hclass : (classOf w).toNat < 16 := (classOf w).isLt
  have class_eq {c : Nibble} (h : (classOf w).toNat = c.toNat) : classOf w = c :=
    BitVec.eq_of_toNat_eq h
  unfold decode
  split
  next h => exact standsFor_decodeClass0 (class_eq h)
  next h => exact ⟨formatA_of_class (class_eq h), rfl⟩
  next h => exact ⟨formatA_of_class (class_eq h), rfl⟩
  next h => exact ⟨formatXK_of_class (class_eq h), rfl⟩
  next h => exact ⟨formatXK_of_class (class_eq h), rfl⟩
  next h => exact standsFor_decodeClass5 (class_eq h)
  next h => exact ⟨formatXK_of_class (class_eq h), rfl⟩
  next h => exact ⟨formatXK_of_class (class_eq h), rfl⟩
  next h => exact standsFor_decodeClass8 (class_eq h)
  next h => exact standsFor_decodeClass9 (class_eq h)
  next h => exact ⟨formatA_of_class (class_eq h), rfl⟩
  next h => exact ⟨formatA_of_class (class_eq h), rfl⟩
  next h => exact ⟨formatXK_of_class (class_eq h), rfl⟩
  next h => exact ⟨formatXYN_of_class (class_eq h), rfl⟩
  next h => exact standsFor_decodeClassE (class_eq h)
  next =>
    have h : (classOf w).toNat = 15 := by simp only [imp_false] at *; omega
    exact standsFor_decodeClassF (class_eq h)

/-- Settles O3: the decoder's sixteen classes, each with the format its fields were read from. -/
theorem encodeOfDecode : Obligations.EncodeOfDecode := standsFor_decode

/-- Settles O1: the ten words, evaluated. -/
theorem specWordsDecode : Obligations.SpecWordsDecode := by
  unfold Obligations.SpecWordsDecode
  decide

end Sys2Proof
end

section
/-! One instruction, said once: the state it leaves when it raises no fault, and that `exec` and
`step` answer that state or the fault of R317's table (spec/60_exceptions.md §2, §4). -/

namespace Sys2Proof.Machine

/-! ## The state an instruction leaves -/

/-- The state `exec i` goes on to from `s` when no fault of R317 applies; `exec_eq` ties it to the
model. -/
def State.afterInstr (s : State) : Instr → State
  | .cls => { s with fb := Framebuffer.clear }
  | .ret =>
    if h : s.sp.val = 0 then { s with outcome := .emptyCallStack }
    else { s with sp := ⟨s.sp.val - 1, by omega⟩, pc := s.stack[s.sp.val - 1]'(by omega) }
  | .jp nnn => s.jump (zextAddr nnn)
  | .call nnn =>
    if h : s.sp.val = 16 then { s with outcome := .callStackOverflow }
    else { s with
      stack := s.stack.set s.sp.val s.pc (by omega)
      sp := ⟨s.sp.val + 1, by omega⟩
      pc := zextAddr nnn }
  | .seImm x kk => s.skipIf (s.reg x == kk)
  | .sneImm x kk => s.skipIf (s.reg x != kk)
  | .seReg x y => s.skipIf (s.reg x == s.reg y)
  | .sneReg x y => s.skipIf (s.reg x != s.reg y)
  | .ldImm x kk => s.setReg x kk
  | .addImm x kk => s.setReg x (s.reg x + kk)
  | .ldReg x y => s.setReg x (s.reg y)
  | .orReg x y => s.setReg x (s.reg x ||| s.reg y)
  | .andReg x y => s.setReg x (s.reg x &&& s.reg y)
  | .xorReg x y => s.setReg x (s.reg x ^^^ s.reg y)
  | .addReg x y => s.writeResultFlag x (s.reg x + s.reg y) (carryFlag (s.reg x) (s.reg y))
  | .subReg x y => s.writeResultFlag x (s.reg x - s.reg y) (noBorrowFlag (s.reg x) (s.reg y))
  | .shr x _ => s.writeResultFlag x (s.reg x >>> 1) (lowBit (s.reg x))
  | .subnReg x y => s.writeResultFlag x (s.reg y - s.reg x) (noBorrowFlag (s.reg y) (s.reg x))
  | .shl x _ => s.writeResultFlag x (s.reg x <<< 1) (highBit (s.reg x))
  | .rnd x kk => s.drawRnd.setReg x (s.rndByte &&& kk)
  | .ldI nnn => { s with i := zextAddr nnn }
  | .addI x => { s with i := s.i + zextByte (s.reg x) }
  | .ldF x => { s with i := glyphAddr (s.reg x) }
  | .jpV0 nnn => s.jump (s.offsetTarget nnn)
  | .drw x y n => drawSprite x y (s.spriteRows n) s
  | .skp x => s.skipIf (s.isPressed (BitVec.ofNat 4 (s.reg x).toNat) == true)
  | .sknp x => s.skipIf (s.isPressed (BitVec.ofNat 4 (s.reg x).toNat) == false)
  | .ldFromDt x => s.setReg x s.dt
  | .ldDt x => { s with dt := s.reg x }
  | .ldSt x => { s with st := s.reg x }
  | .ldKey x =>
    if s.pending then
      match s.latch with
      | some k => State.setReg { s with latch := none, pending := false } x (k.setWidth 8)
      | none => s.rewind
    else State.rewind { s with pending := true }
  | .ldB x => { s with mem := installBytes s.mem s.i.toNat (bcdDigits s.cfg.bcdMode (s.reg x)) }
  | .storeRegs x => { s with mem := installBytes s.mem s.i.toNat (s.regBlock x) }
  | .loadRegs x => { s with
      v := setRegBlock s.v 0 ((List.range (x.toNat + 1)).map fun j => s.readByte (s.i.toNat + j)) }
  | _ => s

/-! ## The forms that can fault (R314, R317) -/

/-- Everything a block of `n` bytes from `I` on can be: inside memory, or the fault. -/
theorem State.blockFault_cases (s : State) (n : Nat) :
    ((n = 0 ∨ s.i.toNat + n ≤ memSize) ∧ s.blockFault n = none) ∨
    (0 < n ∧ memSize < s.i.toNat + n ∧
      s.blockFault n = some (.memoryOutOfBounds s.pc (max s.i.toNat memSize))) := by
  by_cases h : 0 < n ∧ memSize < s.i.toNat + n
  · exact .inr ⟨h.1, h.2, if_pos h⟩
  · exact .inl ⟨by omega, if_neg h⟩

/-- A fault records the address of the instruction, which `PC` held before the step (R35, R314). -/
theorem State.beginStep_pc_sub (s : State) : s.beginStep.pc - 2#16 = s.pc :=
  BitVec.add_sub_cancel s.pc 2#16

theorem execDrw_beginStep (s : State) (x y n : Nibble) :
    execDrw x y n s.beginStep =
      (s.blockFault n.toNat).elim (.next (s.beginStep.afterInstr (.drw x y n))) .fault := by
  obtain ⟨hfits, hnone⟩ | ⟨hpos, hout, hsome⟩ := s.blockFault_cases n.toNat
  · rw [hnone]
    exact execDrw_draws (hfits.imp_left fun h => BitVec.eq_of_toNat_eq h)
  · have hn : n ≠ 0#4 := by rintro rfl; exact absurd hpos (by decide)
    rw [hsome, execDrw_faults (s := s.beginStep) hn hout, State.beginStep_pc_sub]
    rfl

theorem storeAtIndex_beginStep (s : State) {bs : List Byte} (hb : bs ≠ []) :
    storeAtIndex s.beginStep bs =
      (s.blockFault bs.length).elim
        (.next { s.beginStep with mem := installBytes s.mem s.i.toNat bs }) .fault := by
  have hlen : bs.length ≠ 0 := fun h => hb (List.eq_nil_of_length_eq_zero h)
  obtain ⟨hfits, hnone⟩ | ⟨-, hout, hsome⟩ := s.blockFault_cases bs.length
  · rw [hnone]
    exact storeAtIndex_stores (hfits.resolve_left hlen)
  · rw [hsome, storeAtIndex_faults (s := s.beginStep) hb hout, State.beginStep_pc_sub]
    rfl

theorem execLoadRegs_beginStep (s : State) (x : Nibble) :
    execLoadRegs x s.beginStep =
      (s.blockFault (x.toNat + 1)).elim (.next (s.beginStep.afterInstr (.loadRegs x))) .fault := by
  obtain ⟨hfits, hnone⟩ | ⟨-, hout, hsome⟩ := s.blockFault_cases (x.toNat + 1)
  · rw [hnone]
    exact execLoadRegs_loads (hfits.resolve_left (Nat.succ_ne_zero _))
  · rw [hsome, execLoadRegs_faults (s := s.beginStep) hout, State.beginStep_pc_sub]
    rfl

theorem skipOnKey_beginStep (s : State) (x : Nibble) (want : Bool) :
    skipOnKey x want s.beginStep =
      (if 16 ≤ (s.reg x).toNat then some (Fault.keyIndexOutOfRange s.pc (s.reg x)) else none).elim
        (.next (s.beginStep.skipIf (s.isPressed (BitVec.ofNat 4 (s.reg x).toNat) == want)))
        .fault := by
  split_ifs with h
  · rw [skipOnKey_faults (s := s.beginStep) h, State.beginStep_pc_sub]
    rfl
  · exact skipOnKey_skips (Nat.lt_of_not_le h)

/-! ## The forms with more than one way on -/

theorem popCall_eq_afterInstr (s : State) : popCall s = .next (s.afterInstr .ret) := by
  unfold popCall State.afterInstr
  split <;> rfl

theorem pushCall_eq_afterInstr (s : State) (nnn : Addr12) :
    pushCall (zextAddr nnn) s = .next (s.afterInstr (.call nnn)) := by
  unfold pushCall State.afterInstr
  split <;> rfl

theorem execLdKey_eq_afterInstr (s : State) (x : Nibble) :
    execLdKey x s = .next (s.afterInstr (.ldKey x)) := by
  obtain ⟨hp, hpoll⟩ | ⟨k, hp, hl, hpoll⟩ | ⟨hp, hl, hpoll⟩ := pollBlockingRead_cases s
  · simp [execLdKey, State.afterInstr, hpoll, hp]
  · simp [execLdKey, State.afterInstr, hpoll, hp, hl]
  · simp [execLdKey, State.afterInstr, hpoll, hp, hl]

/-! ## Every instruction, and the step -/

/-- What an instruction answers at the state the fetch leaves: the fault of R317's table, or the
state `afterInstr` gives. -/
theorem exec_eq (s : State) (i : Instr) :
    exec i s.beginStep = (s.faultOf i).elim (.next (s.beginStep.afterInstr i)) .fault := by
  cases i with
  | drw x y n => exact execDrw_beginStep s x y n
  | ldB x => exact storeAtIndex_beginStep s (bcdDigits_ne_nil _ _)
  | storeRegs x =>
    have h := storeAtIndex_beginStep s (s.regBlock_ne_nil x)
    rw [State.regBlock_length] at h
    exact h
  | loadRegs x => exact execLoadRegs_beginStep s x
  | skp x => exact skipOnKey_beginStep s x true
  | sknp x => exact skipOnKey_beginStep s x false
  | ret => exact popCall_eq_afterInstr s.beginStep
  | call nnn => exact pushCall_eq_afterInstr s.beginStep nnn
  | ldKey x => exact execLdKey_eq_afterInstr s.beginStep x
  | _ => rfl

/-- A step that can fetch. -/
theorem step_eq {s : State} (h : s.CanFetch) :
    step s = (s.faultOf s.nextInstr).elim (.next (s.beginStep.afterInstr s.nextInstr)) .fault :=
  (step_exec h.1 h.2).trans (exec_eq s s.nextInstr)

/-- A step that goes on raised no fault, and left the state its instruction leaves. -/
theorem step_next_cases {s t : State} (h : step s = .next t) :
    s.CanFetch ∧ s.faultOf s.nextInstr = none ∧ t = s.beginStep.afterInstr s.nextInstr := by
  obtain ⟨hmark, hpc, -⟩ := step_next h
  have hfetch : s.CanFetch := ⟨hmark, hpc⟩
  rw [step_eq hfetch] at h
  cases hf : s.faultOf s.nextInstr with
  | some f => rw [hf] at h; cases h
  | none => rw [hf] at h; cases h; exact ⟨hfetch, rfl, rfl⟩

/-- The step of an instruction that raises no fault. -/
theorem step_of_faultOf_none {s : State} (h : s.CanFetch) (hf : s.faultOf s.nextInstr = none) :
    step s = .next (s.beginStep.afterInstr s.nextInstr) := by
  rw [step_eq h, hf]
  rfl

end Sys2Proof.Machine
end

section
/-! What a step does to memory (spec/10_state.md §5, spec/20_memory.md §1). -/

namespace Sys2Proof.Machine

/-! ## What the forms with more than one way on leave alone -/

theorem afterInstr_ret_frame (s : State) :
    s.afterInstr .ret = { s with
      sp := (s.afterInstr .ret).sp
      pc := (s.afterInstr .ret).pc
      outcome := (s.afterInstr .ret).outcome } := by
  simp only [State.afterInstr]
  split <;> rfl

theorem afterInstr_call_frame (s : State) (nnn : Addr12) :
    s.afterInstr (.call nnn) = { s with
      stack := (s.afterInstr (.call nnn)).stack
      sp := (s.afterInstr (.call nnn)).sp
      pc := (s.afterInstr (.call nnn)).pc
      outcome := (s.afterInstr (.call nnn)).outcome } := by
  simp only [State.afterInstr]
  split <;> rfl

theorem afterInstr_ldKey_frame (s : State) (x : Nibble) :
    s.afterInstr (.ldKey x) = { s with
      v := (s.afterInstr (.ldKey x)).v
      pc := (s.afterInstr (.ldKey x)).pc
      latch := (s.afterInstr (.ldKey x)).latch
      pending := (s.afterInstr (.ldKey x)).pending } := by
  simp only [State.afterInstr]
  split
  · split <;> rfl
  · rfl

/-! ## Memory (R71, R73, R76) -/

/-- A block that raises no fault lies inside memory (R73). -/
theorem State.fits_of_blockFault_none {s : State} {n : Nat} (hn : 0 < n)
    (h : s.blockFault n = none) : s.i.toNat + n ≤ memSize := by
  obtain ⟨hfits, -⟩ | ⟨-, -, hsome⟩ := s.blockFault_cases n
  · exact hfits.resolve_left hn.ne'
  · rw [h] at hsome; cases hsome

/-- Everything an instruction that raises no fault can do to memory: nothing, or one of the two
storing forms installs its block at `I`, inside memory. -/
theorem mem_afterInstr_cases {s : State} {i : Instr} (hf : s.faultOf i = none) :
    (s.beginStep.afterInstr i).mem = s.mem ∨
    ∃ bs, (s.beginStep.afterInstr i).mem = installBytes s.mem s.i.toNat bs ∧
      s.i.toNat + bs.length ≤ memSize ∧
      ((∃ x, i = .ldB x ∧ bs.length = 3) ∨ ∃ x, i = .storeRegs x ∧ bs.length = x.toNat + 1) := by
  cases i with
  | ldB x =>
    exact .inr ⟨bcdDigits s.cfg.bcdMode (s.reg x), rfl,
      State.fits_of_blockFault_none (Nat.succ_pos 2) hf, .inl ⟨x, rfl, bcdDigits_length _ _⟩⟩
  | storeRegs x =>
    have hlen := s.regBlock_length x
    exact .inr ⟨s.regBlock x, rfl, hlen ▸ State.fits_of_blockFault_none (Nat.succ_pos _) hf,
      .inr ⟨x, rfl, hlen⟩⟩
  | ret => left; rw [afterInstr_ret_frame]; rfl
  | call nnn => left; rw [afterInstr_call_frame]; rfl
  | ldKey x => left; rw [afterInstr_ldKey_frame]; rfl
  | _ => left; simp [State.afterInstr, drawSprite]

/-- Settles O19: a block that is stored lies inside memory, where the writes keep the form; nothing
else touches memory. -/
theorem stepKeepsMemoryCanonical : Obligations.StepKeepsMemoryCanonical := by
  intro s t hs h
  obtain ⟨-, hnone, rfl⟩ := step_next_cases h
  obtain hmem | ⟨bs, hmem, hfits, -⟩ := mem_afterInstr_cases hnone
  · rwa [State.Inv, hmem]
  · rw [State.Inv, hmem]
    exact wf_installBytes hs hfits

end Sys2Proof.Machine
end

section
/-! What a step faults on, what it returns, and where it leaves `PC` (spec/10_state.md §2,
spec/60_exceptions.md §2 to §4). -/

namespace Sys2Proof.Machine

/-! ## Faults (R314, R317) -/

/-- Settles O9: outside memory the fetch faults; inside it the step answers the fault of R317's
table or goes on. -/
theorem stepFaultsExactlyAsListed : Obligations.StepFaultsExactlyAsListed := by
  intro s hmark
  by_cases hpc : 0x1000 ≤ s.pc.toNat + 1
  · simp [step_fetchFault hmark hpc, hpc, eq_comm]
  · have hfetch : s.CanFetch := ⟨hmark, Nat.lt_of_not_le hpc⟩
    rw [step_eq hfetch]
    cases s.faultOf s.nextInstr <;> simp [hpc]

/-- A load changes memory only (R372). -/
theorem State.loadPort_frame (s : State) (bytes : List Byte) :
    (s.loadPort bytes).2 = { s with mem := (s.loadPort bytes).2.mem } := by
  unfold State.loadPort
  split <;> rfl

/-- No transaction clears or changes the mark. -/
theorem State.faultMark_apply {s : State} {f : Fault} (h : s.faultMark = some f)
    (tr : Transaction) : (s.apply tr).faultMark = some f := by
  cases tr with
  | step => rw [State.apply_step, stepPort_marked h, h]
  | reset => exact h
  | load bytes => rw [State.apply_load, State.loadPort_frame]; exact h
  | tick => exact h
  | setKey k pressed => exact h

/-- A fault of a step is the state's mark afterwards. -/
theorem State.faultMark_stepPort {s : State} {f : Fault} (h : step s = .fault f) :
    s.stepPort.faultMark = some f := by
  obtain ⟨g, hg, hs⟩ | ⟨-, ⟨t, ht, -⟩ | ⟨g, hg, hs⟩ | ⟨r, hr, -⟩⟩ := stepPort_cases s
  · rw [step_marked hg] at h; cases h
    rw [hs, hg]
  · rw [ht] at h; cases h
  · rw [hg] at h; cases h
    rw [hs, State.enterFault_faultMark]
  · rw [hr] at h; cases h

/-- Settles O10: a marked state answers its mark, and each transaction keeps it. -/
theorem faultMarkIsSticky : Obligations.FaultMarkIsSticky :=
  ⟨fun s _ tr h => ⟨step_marked h, s.faultMark_apply h tr⟩, fun _ _ h => State.faultMark_stepPort h⟩

/-! ## Outcomes (R311, R315) -/

/-- What a step returns, and all of the state where it returns a failure: RET with an empty stack,
CALL with a full one, and every other case. -/
theorem outcome_afterInstr_cases (s : State) (i : Instr) :
    (i = .ret ∧ s.sp.val = 0 ∧ s.afterInstr i = { s with outcome := .emptyCallStack }) ∨
    ((∃ nnn, i = .call nnn) ∧ s.sp.val = 16 ∧
      s.afterInstr i = { s with outcome := .callStackOverflow }) ∨
    (¬ (i = .ret ∧ s.sp.val = 0) ∧ ¬ ((∃ nnn, i = .call nnn) ∧ s.sp.val = 16) ∧
      (s.afterInstr i).outcome = s.outcome) := by
  cases i with
  | ret =>
    by_cases h : s.sp.val = 0
    · exact .inl ⟨rfl, h, dif_pos h⟩
    · exact .inr (.inr (by simp [State.afterInstr, h]))
  | call nnn =>
    by_cases h : s.sp.val = 16
    · exact .inr (.inl ⟨⟨nnn, rfl⟩, h, dif_pos h⟩)
    · exact .inr (.inr (by simp [State.afterInstr, h]))
  | ldKey x => exact .inr (.inr (by rw [afterInstr_ldKey_frame]; simp))
  | _ => exact .inr (.inr (by simp [State.afterInstr, drawSprite]))

/-- Settles O11: the two failures write the outcome only, at the state the fetch leaves. -/
theorem failingStepChangesOnlyPc : Obligations.FailingStepChangesOnlyPc := by
  intro s t h hout
  obtain ⟨-, -, rfl⟩ := step_next_cases h
  obtain ⟨-, -, heq⟩ | ⟨-, -, heq⟩ | ⟨-, -, hok⟩ :=
    outcome_afterInstr_cases s.beginStep s.nextInstr
  · rw [heq]; rfl
  · rw [heq]; rfl
  · exact absurd hok hout

/-- Settles O12: each of the three cases gives one outcome, and they exclude each other. -/
theorem stepOutcomes : Obligations.StepOutcomes := by
  refine ⟨fun s t h => ?_, rfl, rfl, rfl⟩
  obtain ⟨-, -, rfl⟩ := step_next_cases h
  obtain ⟨hi, hsp, heq⟩ | ⟨⟨nnn, hi⟩, hsp, heq⟩ | ⟨hret, hcall, hok⟩ :=
    outcome_afterInstr_cases s.beginStep s.nextInstr
  · rw [heq]
    exact ⟨iff_of_true rfl ⟨hi, hsp⟩, iff_of_false nofun (by simp [hi])⟩
  · rw [heq]
    exact ⟨iff_of_false nofun (by simp [hi]), iff_of_true rfl ⟨⟨nnn, hi⟩, hsp⟩⟩
  · rw [hok]
    exact ⟨iff_of_false nofun hret, iff_of_false nofun hcall⟩

/-! ## `PC` (R36) -/

theorem zextAddr_eq_ofNat (nnn : Addr12) : zextAddr nnn = BitVec.ofNat 16 nnn.toNat := by
  apply BitVec.eq_of_toNat_eq
  have := nnn.isLt
  rw [toNat_zextAddr, BitVec.toNat_ofNat]
  omega

theorem State.offsetTarget_eq_ofNat (s : State) (nnn : Addr12) :
    s.offsetTarget nnn = BitVec.ofNat 16 (nnn.toNat + (s.reg 0#4).toNat) := by
  apply BitVec.eq_of_toNat_eq
  rw [BitVec.toNat_ofNat, ← State.toNat_offsetTarget, Nat.mod_eq_of_lt (s.offsetTarget nnn).isLt]

/-- The advance and a skip: `a + 4`. -/
theorem add_two_add_two (a : Word) : a + 2#16 + 2#16 = a + 4#16 := BitVec.add_assoc a 2#16 2#16

@[simp] theorem State.reg_beginStep (s : State) (x : Nibble) : s.beginStep.reg x = s.reg x := rfl

@[simp] theorem State.isPressed_beginStep (s : State) (k : Nibble) :
    s.beginStep.isPressed k = s.isPressed k := rfl

/-- `PC` where an instruction leaves it, against R36's table. -/
theorem pc_afterInstr (s : State) (i : Instr) : (s.beginStep.afterInstr i).pc = s.pcAfter i := by
  cases i with
  | jp nnn => exact zextAddr_eq_ofNat nnn
  | jpV0 nnn => exact s.offsetTarget_eq_ofNat nnn
  | ret =>
    by_cases h : s.sp.val = 0
    · simp [State.afterInstr, State.pcAfter, h]
    · have hlt : s.sp.val - 1 < 16 := by have := s.sp.isLt; omega
      simp [State.afterInstr, State.pcAfter, h, hlt]
  | call nnn =>
    by_cases h : s.sp.val = 16 <;> simp [State.afterInstr, State.pcAfter, h, zextAddr_eq_ofNat]
  | ldKey x =>
    cases hp : s.pending <;> cases hl : s.latch <;>
      simp [State.afterInstr, State.pcAfter, hp, hl]
  | sknp x =>
    cases h : s.isPressed (BitVec.setWidth 4 (s.reg x)) <;>
      simp [State.afterInstr, State.pcAfter, add_two_add_two, h]
  | _ => simp [State.afterInstr, State.pcAfter, add_two_add_two, drawSprite]

/-- Settles O14: the step leaves the state its instruction leaves. -/
theorem pcAfterEachInstruction : Obligations.PcAfterEachInstruction := by
  intro s t h
  obtain ⟨-, -, rfl⟩ := step_next_cases h
  exact pc_afterInstr s s.nextInstr

end Sys2Proof.Machine
end

section
/-! The writers of each part of the state, and what every transaction keeps (spec/10_state.md §1 to
§7, §11, spec/20_memory.md §1, spec/00_scope.md §3). -/

namespace Sys2Proof.Machine

/-! ## General registers (R34) -/

/-- A register above `x` is none that LD Vx, [I] loads. -/
theorem lt_toNat_of_not_mem_writesRegs_loadRegs {x r : Nibble}
    (h : r ∉ writesRegs (.loadRegs x)) : x.toNat < r.toNat := by
  by_contra hle
  exact h (List.mem_map.mpr
    ⟨r.toNat, List.mem_range.mpr (by omega), by rw [BitVec.ofNat_toNat, BitVec.setWidth_eq]⟩)

theorem sameRegsBut_afterInstr_ldKey (s : State) (x : Nibble) :
    s.SameRegsBut (s.afterInstr (.ldKey x)) [x] := fun r hr => by
  have hrx : r ≠ x := List.ne_of_not_mem_cons hr
  simp only [State.afterInstr]
  split
  · split
    · exact State.reg_setReg_other _ _ hrx
    · rfl
  · rfl

/-- An instruction writes no register but those R34 lists for it. -/
theorem sameRegsBut_afterInstr (s : State) (i : Instr) :
    s.SameRegsBut (s.afterInstr i) (writesRegs i) := by
  cases i
  case ret => exact fun r _ => by rw [afterInstr_ret_frame]; rfl
  case call nnn => exact fun r _ => by rw [afterInstr_call_frame]; rfl
  case ldKey x => exact sameRegsBut_afterInstr_ldKey s x
  case loadRegs x =>
    intro r hr
    have hlt := lt_toNat_of_not_mem_writesRegs_loadRegs hr
    simp only [State.afterInstr]
    rw [reg_loadBlock, if_neg (Nat.not_le.mpr hlt)]
  case drw x y n => exact sameRegsBut_drawSprite s x y _
  case addReg | subReg | shr | subnReg | shl => exact (s.onlyRegs_writeResultFlag _ _ _).2.1
  case ldImm | addImm | ldReg | orReg | andReg | xorReg | ldFromDt =>
    exact (s.onlyRegs_setReg _ _).2.1
  case rnd => exact (s.drawRnd.onlyRegs_setReg _ _).2.1
  case seImm | sneImm | seReg | sneReg | skp | sknp =>
    exact fun r _ => State.reg_congr (s.skipIf_v _) r
  all_goals exact fun _ _ => rfl

/-- Settles O15: the step leaves the state its instruction leaves, which writes only what R34
lists. -/
theorem registerWriters : Obligations.RegisterWriters := by
  intro s t r h hchanged
  obtain ⟨-, -, rfl⟩ := step_next_cases h
  by_contra hr
  exact hchanged (sameRegsBut_afterInstr s.beginStep s.nextInstr r hr)

/-! ## The engine's and the devices' state (R39, R40, R43 to R49) -/

/-- What each instruction leaves of the engine's state. -/
theorem engineState_afterInstr (s : State) (i : Instr) :
    ((s.afterInstr i).sp ≠ s.sp ∨ (s.afterInstr i).stack ≠ s.stack →
      i = .ret ∨ ∃ nnn, i = .call nnn) ∧
    ((s.afterInstr i).i ≠ s.i → (∃ nnn, i = .ldI nnn) ∨ (∃ x, i = .addI x) ∨ ∃ x, i = .ldF x) ∧
    ((s.afterInstr i).rndIndex ≠ s.rndIndex → ∃ x kk, i = .rnd x kk) ∧
    (s.afterInstr i).faultMark = s.faultMark ∧ (s.afterInstr i).cfg = s.cfg := by
  cases i with
  | ret => rw [afterInstr_ret_frame]; simp
  | call nnn => rw [afterInstr_call_frame]; simp
  | ldKey x => rw [afterInstr_ldKey_frame]; simp
  | _ => simp [State.afterInstr, drawSprite]

/-- Settles O16: the step leaves the state its instruction leaves, and the fetch writes none of
this. -/
theorem engineStateWriters : Obligations.EngineStateWriters := by
  intro s t h
  obtain ⟨-, -, rfl⟩ := step_next_cases h
  exact engineState_afterInstr s.beginStep s.nextInstr

/-- What each instruction leaves of the devices' state. -/
theorem deviceState_afterInstr (s : State) (i : Instr) :
    ((s.afterInstr i).fb ≠ s.fb → i = .cls ∨ ∃ x y n, i = .drw x y n) ∧
    (s.afterInstr i).key = s.key ∧
    ((s.afterInstr i).latch ≠ s.latch ∨ (s.afterInstr i).pending ≠ s.pending →
      ∃ x, i = .ldKey x) ∧
    ((s.afterInstr i).dt ≠ s.dt → ∃ x, i = .ldDt x) ∧
    ((s.afterInstr i).st ≠ s.st → ∃ x, i = .ldSt x) := by
  cases i with
  | ret => rw [afterInstr_ret_frame]; simp
  | call nnn => rw [afterInstr_call_frame]; simp
  | ldKey x => rw [afterInstr_ldKey_frame]; simp
  | _ => simp [State.afterInstr, drawSprite]

/-- Settles O17: the step leaves the state its instruction leaves, and the fetch writes none of
this. -/
theorem deviceStateWriters : Obligations.DeviceStateWriters := by
  intro s t h
  obtain ⟨-, -, rfl⟩ := step_next_cases h
  exact deviceState_afterInstr s.beginStep s.nextInstr

/-! ## Memory (R71) -/

/-- A byte that a block of writes changes is one of the block's. -/
theorem mem_block_of_read_installBytes_ne {m : Memory} {a b : Nat} {bs : List Byte}
    (h : (installBytes m a bs).read b ≠ m.read b) : a ≤ b ∧ b < a + bs.length := by
  by_contra hout
  exact h (read_installBytes_other (by omega))

/-- Settles O18: a changed byte is one of the block that LD B or LD [I] stores, and the block lies
inside memory. -/
theorem memoryWriters : Obligations.MemoryWriters := by
  intro s t a h hchanged
  obtain ⟨-, hnone, rfl⟩ := step_next_cases h
  simp only [State.readByte] at hchanged
  obtain hmem | ⟨bs, hmem, hfits, hform⟩ := mem_afterInstr_cases hnone
  · exact absurd (congrArg (Memory.read · a) hmem) hchanged
  · rw [hmem] at hchanged
    obtain ⟨hlo, hhi⟩ := mem_block_of_read_installBytes_ne hchanged
    refine ⟨hlo, hhi.trans_le hfits, ?_⟩
    obtain ⟨x, hi, hlen⟩ | ⟨x, hi, hlen⟩ := hform
    · exact .inl ⟨x, hi, hlen ▸ hhi⟩
    · exact .inr ⟨x, hi, by omega⟩

/-! ## What a transaction keeps -/

/-- What every step and every fault keep, a step transaction keeps. -/
theorem State.stepPort_keeps {α : Type} (part : State → α) (s : State)
    (hstep : ∀ t, step s = .next t → part t = part s)
    (hfault : ∀ f, part (s.enterFault f) = part s) : part s.stepPort = part s := by
  obtain ⟨f, -, hs⟩ | ⟨-, ⟨t, ht, hs⟩ | ⟨f, -, hs⟩ | ⟨r, -, hs⟩⟩ := stepPort_cases s
  · rw [hs]
  · rw [hs, hstep t ht]
  · rw [hs, hfault f]
  · rw [hs]

/-- Settles O57: neither an instruction nor a fault writes the parameters. -/
theorem parametersNeverChange : Obligations.ParametersNeverChange := by
  intro s tr
  cases tr with
  | step =>
    refine s.stepPort_keeps State.cfg (fun t h => ?_) fun f => s.enterFault_cfg f
    obtain ⟨-, -, -, -, hcfg⟩ := engineStateWriters s t h
    exact hcfg
  | reset => rfl
  | load bytes => rw [State.apply_load, State.loadPort_frame]
  | tick => rfl
  | setKey k pressed => rfl

/-- No transaction but `set_key` writes the key states. -/
theorem State.key_apply (s : State) {tr : Transaction} (h : ∀ k pressed, tr ≠ .setKey k pressed) :
    (s.apply tr).key = s.key := by
  cases tr with
  | step =>
    refine s.stepPort_keeps State.key (fun t h => ?_) fun f => s.enterFault_key f
    obtain ⟨-, hkey, -⟩ := deviceStateWriters s t h
    exact hkey
  | reset => rfl
  | load bytes => rw [State.apply_load, State.loadPort_frame]
  | tick => rfl
  | setKey k pressed => exact absurd rfl (h k pressed)

/-- Settles O59: a key's state is read from the key states alone. -/
theorem keyStatesChangeOnlyBySetKey : Obligations.KeyStatesChangeOnlyBySetKey := by
  intro s tr h k
  simp only [State.isPressed, s.key_apply h]

/-! ## The canonical form of memory under the ports (R76, R370, R372) -/

theorem State.resetPort_inv {s : State} (h : s.Inv) : s.resetPort.Inv := by
  rw [State.Inv, State.resetPort_mem]
  exact wf_installBytes h (by rw [fontBytes_length]; decide)

theorem State.loadPort_inv {s : State} (h : s.Inv) (bytes : List Byte) :
    (s.loadPort bytes).2.Inv := by
  obtain hfits | hlarge := le_or_gt bytes.length maxRom
  · rw [State.loadPort_fits s hfits]
    exact wf_installBytes h (Nat.add_le_add_left hfits 0x200)
  · rwa [State.loadPort_tooLarge s hlarge]

/-- Settles O20: a step that goes on keeps the form, a fault sets the mark, and the ports' blocks
lie inside memory. -/
theorem transactionsKeepMemoryCanonical : Obligations.TransactionsKeepMemoryCanonical := by
  intro s tr hs hclear
  cases tr with
  | step =>
    rw [State.apply_step] at hclear ⊢
    obtain ⟨f, -, heq⟩ | ⟨-, ⟨t, ht, heq⟩ | ⟨f, -, heq⟩ | ⟨r, -, heq⟩⟩ := stepPort_cases s
    · rwa [heq]
    · rw [heq]
      exact stepKeepsMemoryCanonical s t hs ht
    · rw [heq, State.enterFault_faultMark] at hclear
      cases hclear
    · rwa [heq]
  | reset => exact State.resetPort_inv hs
  | load bytes => exact State.loadPort_inv hs bytes
  | tick => exact hs
  | setKey k pressed => exact hs

end Sys2Proof.Machine
end

section
/-! Sequences of two steps, and the step itself (spec/10_state.md §2, §8, spec/20_memory.md §2, §7,
spec/40_control_flow.md, spec/70_reset_and_hazards.md §2, §3). -/

namespace Sys2Proof.Machine

/-! ## One step, and two -/

/-- Settles O6: the bytes at `PC` decode to one instruction only. -/
theorem stepRunsDecodedInstruction : Obligations.StepRunsDecodedInstruction := by
  intro s i hfetch _ hbytes
  have hi : s.nextInstr = i := congrArg Prod.fst (Except.ok.inj hbytes)
  calc step s = exec s.nextInstr s.beginStep := step_exec hfetch.1 hfetch.2
    _ = exec i { s with pc := s.pc + 2#16, outcome := .ok } := by rw [hi]; rfl

/-- Settles O13: the fetch does not read the outcome, and the state an instruction starts from has
its own. -/
theorem outcomeIsNeverRead : Obligations.OutcomeIsNeverRead := fun _ _ => rfl

/-- The step of an instruction known to stand at `PC`. -/
theorem step_of_nextInstr {s : State} {i : Instr} (h : s.CanFetch) (hi : s.nextInstr = i) :
    step s = exec i s.beginStep := hi ▸ step_exec h.1 h.2

/-- Two steps that go on, as a run. -/
theorem core_run_two {s t u : State} (ht : step s = .next t) (hu : step t = .next u) :
    Sys2Proof.core.run 2 s = .next u := by
  have hs : Sys2Proof.core.step s = .next t := ht
  have ht : Sys2Proof.core.step t = .next u := hu
  simp only [Host.Core.run, hs, ht]

/-! ## A word placed where the next step fetches (logs 12, 13) -/

theorem State.withFetchWord_eq {s : State} (h : s.CanFetch) (w : Word) :
    s.withFetchWord 16 w.toNat = { s with
      mem := installBytes s.mem s.pc.toNat [w.extractLsb' 8 8, w.extractLsb' 0 8] } := by
  have hw : BitVec.ofNat 16 (w.toNat % 2 ^ 16) = w := by
    rw [Nat.mod_eq_of_lt w.isLt, BitVec.ofNat_toNat, BitVec.setWidth_eq]
  have hpc : s.pc.toNat + 1 < memSize := h.2
  rw [State.withFetchWord, if_pos hpc, hw]

theorem State.nextInstr_withFetchWord {s : State} (h : s.CanFetch) (hs : s.Inv) (w : Word) :
    (s.withFetchWord 16 w.toNat).nextInstr = decode w := by
  have hfits : s.pc.toNat + [w.extractLsb' 8 8, w.extractLsb' 0 8].length ≤ memSize := h.2
  have hhi := read_installBytes_same (j := 0) hs hfits (by simp)
  have hlo := read_installBytes_same (j := 1) hs hfits (by simp)
  rw [State.withFetchWord_eq h]
  exact congrArg decode ((congrArg₂ wordOfBytes hhi hlo).trans (wordOfBytes_bytes w))

/-- Settles O8: the two bytes read back as the word, and the store writes no other byte. -/
theorem fetchWordRunsNext : Obligations.FetchWordRunsNext := by
  intro s w hfetch hs
  have hplaced : (s.withFetchWord 16 w.toNat).CanFetch := by
    rw [State.withFetchWord_eq hfetch]
    exact hfetch
  refine ⟨step_of_nextInstr hplaced (State.nextInstr_withFetchWord hfetch hs w), ?frame, ?bytes⟩
  case frame => rw [State.withFetchWord_eq hfetch]
  case bytes =>
    rw [State.withFetchWord_eq hfetch]
    exact fun _ ha => read_installBytes_other ha

/-! ## A CALL to a RET (R152) -/

/-- Settles O24: the pop takes the entry the push wrote, at the stack pointer the push left. -/
theorem callThenRetBalances : Obligations.CallThenRetBalances := by
  intro s nnn hfetch hsp hi hnnn hret
  obtain ⟨-, -, hpushes⟩ := callPushesOrFails s.beginStep nnn
  obtain ⟨t, ht, htsp, htpc, hstack, htframe, htmem⟩ := hpushes hsp
  obtain ⟨u, hu, husp, hpopped, huframe, -⟩ :=
    (retPopsOrFails.2 t.beginStep).2 (htsp ▸ Nat.succ_pos _)
  have htfetch : t.CanFetch := ⟨by rw [htframe]; exact hfetch.1, by rwa [htpc]⟩
  have hatRet : t.nextInstr = .ret := by
    rw [State.nextInstr, htpc, htmem, htmem]
    exact hret
  have hentry : t.beginStep.sp.val - 1 = s.sp.val := by rw [State.beginStep_sp, htsp]; rfl
  have huspEq : u.sp = s.sp := Fin.ext (husp.trans hentry)
  have hupc : u.pc = s.pc + 2#16 := by
    rw [hentry, State.beginStep_stack, hstack _ hsp] at hpopped
    simpa using hpopped.symm
  refine ⟨u, core_run_two ((step_of_nextInstr hfetch hi).trans ht)
    ((step_of_nextInstr htfetch hatRet).trans hu), ?frame, fun j hj => ?entries⟩
  case frame =>
    rw [huframe, huspEq, hupc, htframe]
    rfl
  case entries =>
    rw [huframe, State.beginStep_stack, hstack j (hj.trans hsp)]
    exact if_neg (Nat.ne_of_lt hj)

/-! ## A store right behind the instruction (R83) -/

/-- Settles O40: the block's first two bytes stand where `PC` is after the store. -/
theorem storeIsSeenByNextFetch : Obligations.StoreIsSeenByNextFetch := by
  intro s x hfetch hs hi hx hbehind hfits
  obtain ⟨-, hstores, -⟩ := storeRegistersBlock s.beginStep x hs
  obtain ⟨t, ht, hbytes, hframe, -⟩ := hstores hfits
  have hmark : t.faultMark = none := by rw [hframe]; exact hfetch.1
  have hpc : t.pc.toNat = s.i.toNat := by
    have : t.pc = s.pc + 2#16 := by rw [hframe]; rfl
    rw [this, BitVec.toNat_add, hbehind]
    exact Nat.mod_eq_of_lt (by simp; omega)
  have hnext : t.nextInstr = decode (wordOfBytes (s.reg 0#4) (s.reg 1#4)) := by
    rw [State.nextInstr, hpc]
    exact congrArg decode (congrArg₂ wordOfBytes (hbytes 0#4 (Nat.zero_le _)) (hbytes 1#4 hx))
  exact ⟨t, (step_of_nextInstr hfetch hi).trans ht, hnext,
    step_of_nextInstr ⟨hmark, by omega⟩ hnext⟩

/-! ## LD Vx, K with a key latched before the request (R50, R383) -/

/-- Settles O47: the first poll makes the request pending and steps back, the second finds it
pending and delivers. -/
theorem latchedKeyNeedsTwoSteps : Obligations.LatchedKeyNeedsTwoSteps := by
  intro s x k hfetch hi hpending hlatch
  have hback : s.beginStep.pc - 2#16 = s.pc := s.beginStep_pc_sub
  have hfirst : step s = .next { s with pending := true, outcome := .ok } := by
    rw [step_of_nextInstr hfetch hi]
    refine (execLdKey_waits (s := s.beginStep) x (.inl hpending)).trans ?_
    rw [State.rewind]
    simp only [hback]
    rfl
  obtain ⟨-, hdelivers, -⟩ :=
    keyReadProtocol (State.beginStep { s with pending := true, outcome := .ok }) x
  obtain ⟨u, hu, hreg, hframe, hregs, -⟩ := hdelivers k rfl hlatch
  have hsecond : step { s with pending := true, outcome := .ok } = .next u :=
    (step_of_nextInstr (s := { s with pending := true, outcome := .ok }) hfetch hi).trans hu
  refine ⟨hfirst, u, core_run_two hfirst hsecond, hreg, hregs, ?_⟩
  rw [hframe, ← hpending]
  rfl

end Sys2Proof.Machine
end

section
/-! The same sprite drawn twice at the same coordinates (spec/43_display.md R262, R265). -/

namespace Sys2Proof.Machine

/-! ## A draw, and the same draw again -/

/-- A draw that goes on leaves the drawn state, from which the same draw goes on again: it keeps `I`
and memory. -/
theorem execDrw_next {s t : State} {x y n : Nibble} (h : exec (.drw x y n) s = .next t) :
    t = drawSprite x y (s.spriteRows n) s ∧
      exec (.drw x y n) t = .next (drawSprite x y (t.spriteRows n) t) := by
  by_cases hfits : n = 0#4 ∨ s.i.toNat + n.toNat ≤ memSize
  · have ht : t = drawSprite x y (s.spriteRows n) s :=
      (Host.Outcome.next.inj ((execDrw_draws hfits).symm.trans h)).symm
    have htfits : n = 0#4 ∨ t.i.toNat + n.toNat ≤ memSize := ht ▸ hfits
    exact ⟨ht, execDrw_draws htfits⟩
  · obtain ⟨hn, hout⟩ := not_or.mp hfits
    cases (execDrw_faults hn (Nat.lt_of_not_le hout)).symm.trans h

/-! ## The flag of one draw and of the second -/

theorem reg_vf_drawSprite_eq_one_iff (s : State) (x y n : Nibble) :
    (drawSprite x y (s.spriteRows n) s).reg vf = 1#8 ↔ s.SpriteCollides x y n := by
  by_cases hit : s.SpriteCollides x y n
  · exact iff_of_true (reg_vf_drawSprite_collides hit) hit
  · rw [reg_vf_drawSprite_not_collides hit]
    exact iff_of_false (by decide) hit

/-- A draw leaves 0 or 1 in VF (R262). -/
theorem reg_vf_drawSprite_zero_or_one (s : State) (x y n : Nibble) :
    (drawSprite x y (s.spriteRows n) s).reg vf = 0#8 ∨
      (drawSprite x y (s.spriteRows n) s).reg vf = 1#8 := by
  by_cases hit : s.SpriteCollides x y n
  · exact .inr (reg_vf_drawSprite_collides hit)
  · exact .inl (reg_vf_drawSprite_not_collides hit)

/-- The second draw collides where the first lit a pixel: where a 1 bit fell on a pixel that was
off. -/
theorem spriteCollides_drawSprite {s t : State} {x y n : Nibble}
    (ht : t = drawSprite x y (s.spriteRows n) s) (hx : t.reg x = s.reg x)
    (hy : t.reg y = s.reg y) :
    t.SpriteCollides x y n ↔ ∃ row col, row < n.toNat ∧ col < 8 ∧
      s.fb.pixel ((s.reg x).toNat + col) ((s.reg y).toNat + row) = false ∧
      (s.readByte (s.i.toNat + row)).getLsbD (7 - col) = true := by
  have hbyte (row : Nat) : t.readByte (t.i.toNat + row) = s.readByte (s.i.toNat + row) := by
    rw [ht]
    rfl
  have hpixel {row col : Nat} (hr : row < n.toNat) (hc : col < 8) :
      t.fb.pixel ((s.reg x).toNat + col) ((s.reg y).toNat + row) =
        (s.fb.pixel ((s.reg x).toNat + col) ((s.reg y).toNat + row) ^^
          (s.readByte (s.i.toNat + row)).getLsbD (7 - col)) := by
    rw [ht, pixel_drawSprite_at s x y hr hc]
  simp only [State.SpriteCollides, hx, hy, hbyte]
  refine exists_congr fun row => exists_congr fun col => and_congr_right fun hr =>
    and_congr_right fun hc => and_congr_left fun hbit => ?_
  rw [hpixel hr hc, hbit, Bool.xor_true, Bool.not_eq_true']

/-! ## The statements -/

/-- Settles O43: the two draws XOR the same bits in, which cancel. -/
theorem drawTwiceRestoresFramebuffer : Obligations.DrawTwiceRestoresFramebuffer := by
  intro s t x y n h hx hy
  obtain ⟨ht, hu⟩ := execDrw_next h
  refine ⟨_, hu, Framebuffer.ext_pixel fun px py _ _ => ?_⟩
  have hrows : t.spriteRows n = s.spriteRows n := by
    rw [ht]
    rfl
  rw [pixel_drawSprite, hx, hy, hrows, ht, pixel_drawSprite, Bool.xor_assoc, Bool.xor_self,
    Bool.xor_false]

/-- Settles O58: the flag of the second draw is its collision. -/
theorem secondDrawCollidesWhereFirstLit : Obligations.SecondDrawCollidesWhereFirstLit := by
  intro s t x y n h hx hy
  obtain ⟨ht, hu⟩ := execDrw_next h
  exact ⟨_, hu, reg_vf_drawSprite_zero_or_one t x y n,
    (reg_vf_drawSprite_eq_one_iff t x y n).trans (spriteCollides_drawSprite ht hx hy)⟩

/-- Settles O44: over a clear region the first draw has nothing to collide with, and the second
collides at every 1 bit. -/
theorem drawCollisionOverClearRegion : Obligations.DrawCollisionOverClearRegion := by
  intro s t x y n h hclear
  obtain ⟨ht, -⟩ := execDrw_next h
  refine ⟨?first, fun hx hy => ?second⟩
  case first =>
    have hmiss : ¬ s.SpriteCollides x y n := fun ⟨row, col, hr, hc, hlit, _⟩ =>
      Bool.false_ne_true ((hclear row col hr hc).symm.trans hlit)
    rw [ht, reg_vf_drawSprite_not_collides hmiss]
  case second =>
    obtain ⟨u, hu, -, hflag⟩ := secondDrawCollidesWhereFirstLit s t x y n h hx hy
    refine ⟨u, hu, hflag.trans (exists_congr fun row => exists_congr fun col =>
      and_congr_right fun hr => and_congr_right fun hc => ?_)⟩
    exact and_iff_right (hclear row col hr hc)

end Sys2Proof.Machine
end

section
/-! Reset, the boot order, and the frame loop (spec/10_state.md §10, §11,
spec/60_exceptions.md §10, spec/70_reset_and_hazards.md §1, §2). -/

namespace Sys2Proof.Machine

/-! ## The launch state (R55, R371, R374) -/

/-- Settles O21: memory lists no byte. -/
theorem resetMemoryCanonical : Obligations.ResetMemoryCanonical := rfl

/-- Storing what unlisted addresses read as lists no byte (log 5). -/
theorem installBytes_background {bs : List Byte} {a : Nat}
    (h : ∀ (j : Nat) (hj : j < bs.length), bs[j] = background (a + j)) :
    installBytes [] a bs = [] := by
  induction bs generalizing a with
  | nil => rfl
  | cons b bs ih =>
    have hb : b = background a := h 0 (Nat.succ_pos _)
    have hwrite : Memory.write [] a b = [] := if_pos hb
    rw [installBytes, hwrite]
    refine ih fun j hj => ?_
    rw [Nat.add_assoc, Nat.add_comm 1 j]
    exact h (j + 1) (Nat.succ_lt_succ hj)

/-- The reset finds the font's bytes already there. -/
theorem resetPort_reset : State.reset.resetPort = State.reset := by
  have hmem : State.reset.resetPort.mem = [] := by
    rw [State.resetPort_mem]
    refine installBytes_background fun j hj => ?_
    rw [fontBytes_getElem, Nat.zero_add]
    rfl
  calc State.reset.resetPort = { State.reset with mem := State.reset.resetPort.mem } := rfl
    _ = State.reset := by rw [hmem]; rfl

/-- Settles O54: every value is written out in the state, and the reset changes none. -/
theorem resetStateValues : Obligations.ResetStateValues :=
  ⟨rfl, rfl, rfl, rfl, rfl,
    by simp [State.cleanLaunch, State.reset, Framebuffer.clear], resetPort_reset⟩

/-- The state the boot order starts from: the launch inputs with the mark clear (R371; log 12). -/
def State.constructed (inputs : State) : State := { inputs with faultMark := none, outcome := .ok }

/-- The boot order with a program that fits: construction, reset, load. -/
theorem boot_fits (inputs : State) {rom : List Byte} (h : rom.length ≤ maxRom) :
    boot inputs rom = some { inputs.constructed.resetPort with
      mem := installBytes inputs.constructed.resetPort.mem 0x200 rom } := by
  rw [boot, State.loadPort_fits _ h]
  rfl

/-- Settles O53: the reset's writes, then the program's bytes, which lie above the font's. -/
theorem bootGivesLaunchState : Obligations.BootGivesLaunchState := by
  intro inputs rom hinputs hrom
  have hinv : inputs.constructed.Inv := hinputs
  have hreset : inputs.constructed.resetPort.Inv := State.resetPort_inv hinv
  refine ⟨_, boot_fits inputs hrom, rfl, rfl, rfl, rfl, rfl, fun g b hg hb => ?font,
    read_installBytes_program hreset hrom, fun a ha => ?rest,
    rfl, rfl, rfl, rfl, rfl, rfl, rfl, rfl⟩
  case font =>
    exact (read_installBytes_other (by omega)).trans (State.readByte_resetPort_glyph hinv hg hb)
  case rest =>
    exact (read_installBytes_other (by omega)).trans
      (inputs.constructed.sameMemoryOutside_resetPort a (by omega))

/-! ## A run of steps (R350, R351) -/

/-- The outcomes of the first `k` step transactions from a state, in order. -/
def State.outcomesFrom (s : State) (k : Nat) : List StepOutcome :=
  (List.range k).map fun j => (State.stepPort^[j + 1] s).outcome

theorem State.outcomesFrom_succ (s : State) (k : Nat) :
    s.outcomesFrom (k + 1) = s.stepPort.outcome :: s.stepPort.outcomesFrom k := by
  simp [State.outcomesFrom, List.range_succ_eq_map, Function.comp_def]

/-- A mark that a run ends without was never set on the way. -/
theorem faultMark_stepPort_of_iterate {s : State} {n : Nat}
    (h : (State.stepPort^[n] s).faultMark = none) : s.faultMark = none := by
  cases hs : s.faultMark with
  | none => rfl
  | some f => rw [iterate_stepPort_marked hs, hs] at h; cases h

/-- A run that no fault ends logs every step's outcome. -/
theorem runSteps_outcomes_clear {n : Nat} {s : State}
    (h : (State.stepPort^[n] s).faultMark = none) : (s.runSteps n).1 = s.outcomesFrom n := by
  induction n generalizing s with
  | zero => rfl
  | succ n ih =>
    rw [Function.iterate_succ_apply] at h
    rw [runSteps_succ_clear n (faultMark_stepPort_of_iterate h), ih h, State.outcomesFrom_succ]

/-- A run that a fault ends logs the outcomes of the steps before the one that set the mark. -/
theorem runSteps_outcomes_marked {n : Nat} {s : State} {f : Fault} (hs : s.faultMark = none)
    (h : (State.stepPort^[n] s).faultMark = some f) :
    ∃ k, k < n ∧ (State.stepPort^[k] s).faultMark = none ∧
      (State.stepPort^[k + 1] s).faultMark = some f ∧ (s.runSteps n).1 = s.outcomesFrom k := by
  induction n generalizing s with
  | zero => rw [Function.iterate_zero_apply, hs] at h; cases h
  | succ n ih =>
    rw [Function.iterate_succ_apply] at h
    cases hstep : s.stepPort.faultMark with
    | some g =>
      rw [iterate_stepPort_marked hstep] at h
      exact ⟨0, Nat.succ_pos n, hs, h, by rw [runSteps_succ_marked n hstep]; rfl⟩
    | none =>
      obtain ⟨k, hk, hclear, hmarked, hlog⟩ := ih hstep h
      refine ⟨k + 1, Nat.succ_lt_succ hk, hclear, hmarked, ?_⟩
      rw [runSteps_succ_clear n hstep, hlog, State.outcomesFrom_succ]

/-! ## Frames (R350) -/

/-- Settles O55: the frame is its run of steps, after the events and the tick. -/
theorem frameRunsIpfSteps : Obligations.FrameRunsIpfSteps := by
  intro s ipf events start after logged
  have hstart : (s.applyEvents events).tickPort = start := by rw [applyEvents_eq_foldl]
  refine ⟨fun f hf => frame_marked hf ipf events, fun hs => ?_⟩
  have hclear : start.faultMark = none := by
    rw [← hstart, State.tickPort_faultMark, faultMark_applyEvents, hs]
  have hframe := frame_clear hs ipf events
  rw [hstart] at hframe
  simp only [runSteps_state] at hframe
  refine ⟨by rw [hframe], fun hend => ?runs, fun f hend => ?faults⟩
  case runs =>
    rw [hframe]
    exact ⟨runSteps_outcomes_clear hend, _, if_pos hend, render_pixel _⟩
  case faults =>
    rw [hframe]
    exact ⟨if_neg (by rw [hend]; exact nofun), runSteps_outcomes_marked hclear hend⟩

/-- The state that frames with these events reach one after another. -/
def State.afterFrames (s : State) (ipf : Nat) (eventLists : List (List KeyEvent)) : State :=
  eventLists.foldl (fun u events => (u.frame ipf events).2) s

/-- A mark stays through every frame. -/
theorem State.afterFrames_marked {s : State} {f : Fault} (h : s.faultMark = some f) (ipf : Nat)
    (eventLists : List (List KeyEvent)) : s.afterFrames ipf eventLists = s := by
  induction eventLists with
  | nil => rfl
  | cons events rest ih => rw [State.afterFrames, List.foldl_cons, frame_marked h]; exact ih

theorem frames_cons_clear {s : State} (h : s.faultMark = none) (ipf : Nat)
    (events : List KeyEvent) (rest : List (List KeyEvent)) :
    s.frames ipf (events :: rest) =
      ((s.frame ipf events).1 :: ((s.frame ipf events).2.frames ipf rest).1,
        ((s.frame ipf events).2.frames ipf rest).2) := by
  rw [State.frames, h]

theorem frames_marked {s : State} {f : Fault} (h : s.faultMark = some f) (ipf : Nat)
    (eventLists : List (List KeyEvent)) : s.frames ipf eventLists = ([], s) := by
  cases eventLists with
  | nil => rfl
  | cons events rest => rw [State.frames, h]

/-- The loop leaves the state the frames reach one after another. -/
theorem frames_state (s : State) (ipf : Nat) (eventLists : List (List KeyEvent)) :
    (s.frames ipf eventLists).2 = s.afterFrames ipf eventLists := by
  induction eventLists generalizing s with
  | nil => rfl
  | cons events rest ih =>
    cases hs : s.faultMark with
    | some f => rw [frames_marked hs, State.afterFrames_marked hs]
    | none => rw [frames_cons_clear hs, ih]; rfl

/-- While no fault ends the loop, each frame reports from the state the frames before it reached. -/
theorem frames_reports {s : State} {ipf : Nat} {eventLists : List (List KeyEvent)}
    (h : (s.frames ipf eventLists).2.faultMark = none) :
    (s.frames ipf eventLists).1.length = eventLists.length ∧
    ∀ k events, eventLists[k]? = some events →
      (s.frames ipf eventLists).1[k]? =
        some ((s.afterFrames ipf (eventLists.take k)).frame ipf events).1 := by
  induction eventLists generalizing s with
  | nil => exact ⟨rfl, nofun⟩
  | cons first rest ih =>
    cases hs : s.faultMark with
    | some f => rw [frames_marked hs, hs] at h; cases h
    | none =>
      rw [frames_cons_clear hs] at h ⊢
      obtain ⟨hlength, hreports⟩ := ih h
      refine ⟨congrArg Nat.succ hlength, fun k events hk => ?_⟩
      cases k with
      | zero =>
        obtain rfl : first = events := by simpa using hk
        rfl
      | succ k => exact hreports k events hk

/-- Settles O56: the loop's state and its reports, each by induction on the list of frames. -/
theorem framesRunInOrder : Obligations.FramesRunInOrder := by
  intro s ipf eventLists reached
  have hall : reached eventLists.length = s.afterFrames ipf eventLists := by
    simp only [reached, List.take_length, State.afterFrames]
  exact ⟨(frames_state s ipf eventLists).trans hall.symm, frames_reports⟩

end Sys2Proof.Machine
end
